-- ==== Sys2Proof/Word.lean ====
section
/-! DEFINITION. The word types of the machine (spec/00_scope.md R10, R11): everything is unsigned. -/

namespace Sys2Proof

/-- An 8-bit unsigned value: a register, a byte of memory, a timer (R11). -/
abbrev Byte := BitVec 8

/-- A 16-bit unsigned value: an instruction word, `pc`, `I`, a return address (R11). -/
abbrev Word := BitVec 16

end Sys2Proof
end

