-- ==== Sys2Proof/Config.lean ====
section
/-! DEFINITION. What is fixed for this hardware: the parameters of spec/00_scope.md R6 to R9, the quirk configuration's
type (R7), the font (spec/20_memory.md R58), and the one free value, the random byte (R37, R177). -/

namespace Sys2Proof

/-- The five quirk booleans `Q` (R7, R31). All 32 combinations are legal. -/
structure Quirks where
  /-- `Q.LOGIC_RESETS_VF`: OR, AND, XOR force VF to 0 after the operation. -/
  logicResetsVf : Bool
  /-- `Q.MEM_ADVANCES_I`: ST_REGS and LD_REGS advance `I` past the last register moved. -/
  memAdvancesI : Bool
  /-- `Q.ADDI_SETS_VF`: ADD_I writes VF. -/
  addiSetsVf : Bool
  /-- `Q.SHIFT_USES_VY`: SHR and SHL shift `V[Y]` into `V[X]`. -/
  shiftUsesVy : Bool
  /-- `Q.JUMP_USES_V0`: JP_OFF adds `V[0]`, not `V[X]`. -/
  jumpUsesV0 : Bool
  deriving DecidableEq, Repr

namespace Config

/-- `MEM_SIZE`: bytes of main memory (R6). -/
def memSize : Nat := 4096

/-- `FONT_BASE`: address of the first font byte (R6). -/
def fontBase : Nat := 0x50

/-- `FONT_LEN`: font bytes (R6). -/
def fontLen : Nat := 80

/-- `GLYPH_LEN`: bytes per glyph (R6). -/
def glyphLen : Nat := 5

/-- `ENTRY`: reset value of `pc` and load address of the image (R6). -/
def entry : Nat := 0x200

/-- `IMAGE_MAX`: the largest image, `MEM_SIZE - ENTRY` (R6). -/
def imageMax : Nat := memSize - entry

/-- `STACK_CAP`: return-stack entries (R6). -/
def stackCap : Nat := 64

/-- `DISP_W`: display columns (R6). -/
def dispW : Nat := 64

/-- `DISP_H`: display rows (R6). -/
def dispH : Nat := 32

/-- `KEYWAIT_RELEASE`: fixed when the hardware is built; `true` for this hardware (R8, D11; log 7). -/
def keywaitRelease : Bool := true

def glyphs0to3 : List Byte :=
  [0xF0, 0x90, 0x90, 0x90, 0xF0,  0x20, 0x60, 0x20, 0x20, 0x70,
   0xF0, 0x10, 0xF0, 0x80, 0xF0,  0xF0, 0x10, 0xF0, 0x10, 0xF0]

def glyphs4to7 : List Byte :=
  [0x90, 0x90, 0xF0, 0x10, 0x10,  0xF0, 0x80, 0xF0, 0x10, 0xF0,
   0xF0, 0x80, 0xF0, 0x90, 0xF0,  0xF0, 0x10, 0x20, 0x40, 0x40]

def glyphs8toB : List Byte :=
  [0xF0, 0x90, 0xF0, 0x90, 0xF0,  0xF0, 0x90, 0xF0, 0x10, 0xF0,
   0xF0, 0x90, 0xF0, 0x90, 0x90,  0xE0, 0x90, 0xE0, 0x90, 0xE0]

def glyphsCtoF : List Byte :=
  [0xF0, 0x80, 0x80, 0x80, 0xF0,  0xE0, 0x90, 0x90, 0x90, 0xE0,
   0xF0, 0x80, 0xF0, 0x80, 0xF0,  0xF0, 0x80, 0xF0, 0x80, 0x80]

/-- `FONT`: 16 glyphs of 5 bytes, glyph `d` at offset `5 * d` (R9, R58). The spec supplies these bytes from general
knowledge (D17; log 6). -/
def font : List Byte := glyphs0to3 ++ glyphs4to7 ++ glyphs8toB ++ glyphsCtoF

/-- The quirks of the fixed name `State.reset`. The spec gives `reset(q)` no default (R7), so every claim about reset is
made for `State.resetWith q` and every `q`. DESIGN CHOICE, unsafe (log 4): all five false. -/
def resetQuirks : Quirks := ⟨false, false, false, false, false⟩

/-- FREE VALUE (R177, D14; log 3): the byte `rnd` of a step whose environment has not named it. It has no body, so nothing
can be proved of its values. Its argument is State's counter `rndCount`. -/
opaque freeRndByte : Nat → Byte

end Config

end Sys2Proof
end

