-- ==== Sys2Proof/Syntax.lean ====
section
/-! DEFINITION. The instruction set: one constructor per row of spec/opcode_table.json (spec/30_encoding.md R75). -/

namespace Sys2Proof

/-- A register number, a 4-bit field: every value names a register (R20). -/
abbrev Reg := Fin 16

/-- `VF`, the flag register `V[15]` (R20, R21). -/
def vf : Reg := 15

/-- The 34 instructions (R75). Operands are those of R73: `x`, `y` register numbers, `nn` an immediate byte, `nnn` a
12-bit address, `n` a row count. -/
inductive Instr where
  /-- CLS `00E0` (R160). -/
  | cls
  /-- RET `00EE` (R100). -/
  | ret
  /-- JP `1NNN` (R101). -/
  | jp (nnn : BitVec 12)
  /-- CALL `2NNN` (R102). -/
  | call (nnn : BitVec 12)
  /-- SE_VX_NN `3XNN` (R103). -/
  | seVxNn (x : Reg) (nn : Byte)
  /-- SNE_VX_NN `4XNN` (R104). -/
  | sneVxNn (x : Reg) (nn : Byte)
  /-- SE_VX_VY `5XY0` (R105). -/
  | seVxVy (x y : Reg)
  /-- LD_VX_NN `6XNN` (R121). -/
  | ldVxNn (x : Reg) (nn : Byte)
  /-- ADD_VX_NN `7XNN` (R122). -/
  | addVxNn (x : Reg) (nn : Byte)
  /-- LD_VX_VY `8XY0` (R123). -/
  | ldVxVy (x y : Reg)
  /-- OR `8XY1` (R124). -/
  | or (x y : Reg)
  /-- AND `8XY2` (R125). -/
  | and (x y : Reg)
  /-- XOR `8XY3` (R126). -/
  | xor (x y : Reg)
  /-- ADD_VX_VY `8XY4` (R127). -/
  | addVxVy (x y : Reg)
  /-- SUB `8XY5` (R128). -/
  | sub (x y : Reg)
  /-- SHR `8XY6` (R129). -/
  | shr (x y : Reg)
  /-- SUBN `8XY7` (R130). -/
  | subn (x y : Reg)
  /-- SHL `8XYE` (R131). -/
  | shl (x y : Reg)
  /-- SNE_VX_VY `9XY0` (R106). -/
  | sneVxVy (x y : Reg)
  /-- LD_I `ANNN` (R141). -/
  | ldI (nnn : BitVec 12)
  /-- JP_OFF `BNNN` (R108). -/
  | jpOff (nnn : BitVec 12)
  /-- RND `CXNN` (R177). -/
  | rnd (x : Reg) (nn : Byte)
  /-- DRW `DXYN` (R161). The row count is a number; that it is at most 15 is `Instr.wellFormed`. -/
  | drw (x y : Reg) (n : Nat)
  /-- SKP `EX9E` (R170). -/
  | skp (x : Reg)
  /-- SKNP `EXA1` (R171). -/
  | sknp (x : Reg)
  /-- LD_VX_DT `FX07` (R173). -/
  | ldVxDt (x : Reg)
  /-- LD_VX_K `FX0A` (R172). -/
  | ldVxK (x : Reg)
  /-- LD_DT_VX `FX15` (R174). -/
  | ldDtVx (x : Reg)
  /-- LD_ST_VX `FX18` (R175). -/
  | ldStVx (x : Reg)
  /-- ADD_I `FX1E` (R142). -/
  | addI (x : Reg)
  /-- LD_F `FX29` (R143). -/
  | ldF (x : Reg)
  /-- LD_B `FX33` (R144). -/
  | ldB (x : Reg)
  /-- ST_REGS `FX55` (R145). -/
  | stRegs (x : Reg)
  /-- LD_REGS `FX65` (R146). -/
  | ldRegs (x : Reg)
  deriving DecidableEq, Repr

end Sys2Proof
end

