-- ==== Sys2Proof/WellFormed.lean ====
section
/-! DEFINITION. Which terms of `Instr` are instructions of the machine. Register numbers, immediates and addresses are in
range by their types (spec/30_encoding.md R73: X, Y 4 bits, NN 8 bits, NNN 12 bits); the one operand held as a number,
DRW's row count N (4 bits, "a row count 0 to 15"), is checked here. -/

namespace Sys2Proof

/-- The term has an encoding: DRW's row count fits its 4-bit field (R73); every other operand fits by its type. -/
def Instr.wellFormed : Instr → Bool
  | .cls => true
  | .ret => true
  | .jp _ => true
  | .call _ => true
  | .seVxNn _ _ => true
  | .sneVxNn _ _ => true
  | .seVxVy _ _ => true
  | .ldVxNn _ _ => true
  | .addVxNn _ _ => true
  | .ldVxVy _ _ => true
  | .or _ _ => true
  | .and _ _ => true
  | .xor _ _ => true
  | .addVxVy _ _ => true
  | .sub _ _ => true
  | .shr _ _ => true
  | .subn _ _ => true
  | .shl _ _ => true
  | .sneVxVy _ _ => true
  | .ldI _ => true
  | .jpOff _ => true
  | .rnd _ _ => true
  | .drw _ _ n => decide (n < 16)
  | .skp _ => true
  | .sknp _ => true
  | .ldVxDt _ => true
  | .ldVxK _ => true
  | .ldDtVx _ => true
  | .ldStVx _ => true
  | .addI _ => true
  | .ldF _ => true
  | .ldB _ => true
  | .stRegs _ => true
  | .ldRegs _ => true

end Sys2Proof
end

