-- ==== Sys2Proof/Decode.lean ====
section
/-! DEFINITION. Decoding (spec/30_encoding.md R72 to R76) and, after it, the encoder and the opcode map (R75), written from
the same tables. The opcode numbers other than DXYN are the spec's general knowledge (D18; log 8). -/

namespace Sys2Proof

/-! ### Fields of an instruction word (R10, R73) -/

/-- `op = w[15:12]`, the top nibble. -/
def opOf (w : Word) : BitVec 4 := w.extractLsb' 12 4

/-- `X = w[11:8]`, a register number. -/
def xOf (w : Word) : Reg := (w.extractLsb' 8 4).toFin

/-- `Y = w[7:4]`, a register number. -/
def yOf (w : Word) : Reg := (w.extractLsb' 4 4).toFin

/-- `N = w[3:0]`. -/
def nOf (w : Word) : BitVec 4 := w.extractLsb' 0 4

/-- `NN = w[7:0]`. -/
def nnOf (w : Word) : Byte := w.extractLsb' 0 8

/-- `NNN = w[11:0]`. -/
def nnnOf (w : Word) : BitVec 12 := w.extractLsb' 0 12

/-! ### Decoding a word -/

/-- `op = 0`: the whole word selects (R74). -/
def decodeZero (w : Word) : Option Instr :=
  if w = 0x00E0#16 then some .cls
  else if w = 0x00EE#16 then some .ret
  else none

/-- `op = 8`: the low nibble selects among nine instructions (R74, R75). -/
def decodeAlu (w : Word) : Option Instr :=
  match nOf w with
  | 0x0#4 => some (.ldVxVy (xOf w) (yOf w))
  | 0x1#4 => some (.or (xOf w) (yOf w))
  | 0x2#4 => some (.and (xOf w) (yOf w))
  | 0x3#4 => some (.xor (xOf w) (yOf w))
  | 0x4#4 => some (.addVxVy (xOf w) (yOf w))
  | 0x5#4 => some (.sub (xOf w) (yOf w))
  | 0x6#4 => some (.shr (xOf w) (yOf w))
  | 0x7#4 => some (.subn (xOf w) (yOf w))
  | 0xE#4 => some (.shl (xOf w) (yOf w))
  | _ => none

/-- `op = 0xE`: the low byte selects (R74, R75). -/
def decodeKey (w : Word) : Option Instr :=
  match nnOf w with
  | 0x9E#8 => some (.skp (xOf w))
  | 0xA1#8 => some (.sknp (xOf w))
  | _ => none

/-- `op = 0xF`: the low byte selects (R74, R75). -/
def decodeFunction (w : Word) : Option Instr :=
  match nnOf w with
  | 0x07#8 => some (.ldVxDt (xOf w))
  | 0x0A#8 => some (.ldVxK (xOf w))
  | 0x15#8 => some (.ldDtVx (xOf w))
  | 0x18#8 => some (.ldStVx (xOf w))
  | 0x1E#8 => some (.addI (xOf w))
  | 0x29#8 => some (.ldF (xOf w))
  | 0x33#8 => some (.ldB (xOf w))
  | 0x55#8 => some (.stRegs (xOf w))
  | 0x65#8 => some (.ldRegs (xOf w))
  | _ => none

/-- Decode is a function of the word alone, dispatched first on the top nibble (R74, R77). `none`: the word matches no row
of R75 and is illegal (R76). `op` 5 and 9 require a zero low nibble (R74, D10). -/
def decodeWord (w : Word) : Option Instr :=
  match opOf w with
  | 0x0#4 => decodeZero w
  | 0x1#4 => some (.jp (nnnOf w))
  | 0x2#4 => some (.call (nnnOf w))
  | 0x3#4 => some (.seVxNn (xOf w) (nnOf w))
  | 0x4#4 => some (.sneVxNn (xOf w) (nnOf w))
  | 0x5#4 => if nOf w = 0#4 then some (.seVxVy (xOf w) (yOf w)) else none
  | 0x6#4 => some (.ldVxNn (xOf w) (nnOf w))
  | 0x7#4 => some (.addVxNn (xOf w) (nnOf w))
  | 0x8#4 => decodeAlu w
  | 0x9#4 => if nOf w = 0#4 then some (.sneVxVy (xOf w) (yOf w)) else none
  | 0xA#4 => some (.ldI (nnnOf w))
  | 0xB#4 => some (.jpOff (nnnOf w))
  | 0xC#4 => some (.rnd (xOf w) (nnOf w))
  | 0xD#4 => some (.drw (xOf w) (yOf w) (nOf w).toNat)
  | 0xE#4 => decodeKey w
  | 0xF#4 => decodeFunction w
  | _ => none

/-! ### Decoding bytes -/

/-- The big-endian word of two bytes, the first from the lower address (R52). -/
def wordOfBytes (hi lo : Byte) : Word := hi ++ lo

/-- The high byte of a word, stored at the lower address (R52). -/
def hiByte (w : Word) : Byte := w.extractLsb' 8 8

/-- The low byte of a word, stored at the higher address (R52). -/
def loByte (w : Word) : Byte := w.extractLsb' 0 8

/-- Why bytes give no instruction. -/
inductive DecodeError where
  /-- Fewer than two bytes are left: every instruction is two bytes (R71). -/
  | truncated
  /-- The word matches no row of R75 (R76); `step` raises UnimplementedOpcode for it (R202). -/
  | unimplementedOpcode (w : Word)
  deriving DecidableEq, Repr

/-- Decode the first instruction of a byte sequence, total, rejecting by name; the answer carries the bytes that follow. -/
def decodeBytes : List Byte → Except DecodeError (Instr × List Byte)
  | hi :: lo :: rest =>
    match decodeWord (wordOfBytes hi lo) with
    | some i => .ok (i, rest)
    | none => .error (.unimplementedOpcode (wordOfBytes hi lo))
  | _ => .error .truncated

/-- The instruction the decoder reads from an instruction whose bits are `w`, numbered as spec/opcode_table.json numbers
them; bits at `nbits` and above are 0. The word is laid out big-endian (R52) and given to `decodeBytes`. -/
def decodeTableWord (nbits w : Nat) : Option Instr :=
  let word : Word := BitVec.ofNat 16 (w % 2 ^ nbits)
  match decodeBytes [hiByte word, loByte word] with
  | .ok (i, _) => some i
  | .error _ => none

/-! ### The encoder, by format (R72, R75) -/

/-- The 4-bit field of a register number (R73). -/
def regField (r : Reg) : BitVec 4 := BitVec.ofFin r

/-- Format `A`: `op`, `NNN`. -/
def encodeA (op : BitVec 4) (nnn : BitVec 12) : Word := op ++ nnn

/-- Format `XI`: `op`, `X`, `NN`. -/
def encodeXI (op : BitVec 4) (x : Reg) (nn : Byte) : Word := op ++ regField x ++ nn

/-- Formats `XY` and `XYN`: `op`, `X`, `Y`, and a low nibble (a function code, or DRW's `N`). -/
def encodeXY (op : BitVec 4) (x y : Reg) (low : BitVec 4) : Word := op ++ regField x ++ regField y ++ low

/-- Format `XF`: `op`, `X`, and a function code in the low byte. -/
def encodeXF (op : BitVec 4) (x : Reg) (fn : Byte) : Word := op ++ regField x ++ fn

/-- The word of an instruction (R75). -/
def encode : Instr → Word
  | .cls => 0x00E0
  | .ret => 0x00EE
  | .jp nnn => encodeA 0x1 nnn
  | .call nnn => encodeA 0x2 nnn
  | .seVxNn x nn => encodeXI 0x3 x nn
  | .sneVxNn x nn => encodeXI 0x4 x nn
  | .seVxVy x y => encodeXY 0x5 x y 0x0
  | .ldVxNn x nn => encodeXI 0x6 x nn
  | .addVxNn x nn => encodeXI 0x7 x nn
  | .ldVxVy x y => encodeXY 0x8 x y 0x0
  | .or x y => encodeXY 0x8 x y 0x1
  | .and x y => encodeXY 0x8 x y 0x2
  | .xor x y => encodeXY 0x8 x y 0x3
  | .addVxVy x y => encodeXY 0x8 x y 0x4
  | .sub x y => encodeXY 0x8 x y 0x5
  | .shr x y => encodeXY 0x8 x y 0x6
  | .subn x y => encodeXY 0x8 x y 0x7
  | .shl x y => encodeXY 0x8 x y 0xE
  | .sneVxVy x y => encodeXY 0x9 x y 0x0
  | .ldI nnn => encodeA 0xA nnn
  | .jpOff nnn => encodeA 0xB nnn
  | .rnd x nn => encodeXI 0xC x nn
  | .drw x y n => encodeXY 0xD x y (BitVec.ofNat 4 n)
  | .skp x => encodeXF 0xE x 0x9E
  | .sknp x => encodeXF 0xE x 0xA1
  | .ldVxDt x => encodeXF 0xF x 0x07
  | .ldVxK x => encodeXF 0xF x 0x0A
  | .ldDtVx x => encodeXF 0xF x 0x15
  | .ldStVx x => encodeXF 0xF x 0x18
  | .addI x => encodeXF 0xF x 0x1E
  | .ldF x => encodeXF 0xF x 0x29
  | .ldB x => encodeXF 0xF x 0x33
  | .stRegs x => encodeXF 0xF x 0x55
  | .ldRegs x => encodeXF 0xF x 0x65

/-! ### The opcode map as the spec prints it (R75) -/

/-- One row of the opcode map: a word matches it when `w &&& mask = pattern` (R74). -/
structure OpcodeRow where
  mnemonic : String
  mask : Word
  pattern : Word
  deriving DecidableEq, Repr

/-- `(w & mask) = match` (R74). -/
def OpcodeRow.matchesWord (r : OpcodeRow) (w : Word) : Bool := w &&& r.mask == r.pattern

def controlRows : List OpcodeRow :=
  [⟨"CLS", 0xFFFF, 0x00E0⟩,
   ⟨"RET", 0xFFFF, 0x00EE⟩,
   ⟨"JP", 0xF000, 0x1000⟩,
   ⟨"CALL", 0xF000, 0x2000⟩,
   ⟨"SE_VX_NN", 0xF000, 0x3000⟩,
   ⟨"SNE_VX_NN", 0xF000, 0x4000⟩,
   ⟨"SE_VX_VY", 0xF00F, 0x5000⟩]

def immediateRows : List OpcodeRow :=
  [⟨"LD_VX_NN", 0xF000, 0x6000⟩,
   ⟨"ADD_VX_NN", 0xF000, 0x7000⟩]

def aluRows : List OpcodeRow :=
  [⟨"LD_VX_VY", 0xF00F, 0x8000⟩,
   ⟨"OR", 0xF00F, 0x8001⟩,
   ⟨"AND", 0xF00F, 0x8002⟩,
   ⟨"XOR", 0xF00F, 0x8003⟩,
   ⟨"ADD_VX_VY", 0xF00F, 0x8004⟩,
   ⟨"SUB", 0xF00F, 0x8005⟩,
   ⟨"SHR", 0xF00F, 0x8006⟩,
   ⟨"SUBN", 0xF00F, 0x8007⟩,
   ⟨"SHL", 0xF00F, 0x800E⟩]

def addressRows : List OpcodeRow :=
  [⟨"SNE_VX_VY", 0xF00F, 0x9000⟩,
   ⟨"LD_I", 0xF000, 0xA000⟩,
   ⟨"JP_OFF", 0xF000, 0xB000⟩,
   ⟨"RND", 0xF000, 0xC000⟩,
   ⟨"DRW", 0xF000, 0xD000⟩]

def keyRows : List OpcodeRow :=
  [⟨"SKP", 0xF0FF, 0xE09E⟩,
   ⟨"SKNP", 0xF0FF, 0xE0A1⟩]

def functionRows : List OpcodeRow :=
  [⟨"LD_VX_DT", 0xF0FF, 0xF007⟩,
   ⟨"LD_VX_K", 0xF0FF, 0xF00A⟩,
   ⟨"LD_DT_VX", 0xF0FF, 0xF015⟩,
   ⟨"LD_ST_VX", 0xF0FF, 0xF018⟩,
   ⟨"ADD_I", 0xF0FF, 0xF01E⟩,
   ⟨"LD_F", 0xF0FF, 0xF029⟩,
   ⟨"LD_B", 0xF0FF, 0xF033⟩,
   ⟨"ST_REGS", 0xF0FF, 0xF055⟩,
   ⟨"LD_REGS", 0xF0FF, 0xF065⟩]

/-- The opcode map (R75): 34 rows, in the spec's order. -/
def opcodeRows : List OpcodeRow :=
  controlRows ++ immediateRows ++ aluRows ++ addressRows ++ keyRows ++ functionRows

/-- The row of R75 an instruction belongs to. -/
def rowOf : Instr → OpcodeRow
  | .cls => ⟨"CLS", 0xFFFF, 0x00E0⟩
  | .ret => ⟨"RET", 0xFFFF, 0x00EE⟩
  | .jp _ => ⟨"JP", 0xF000, 0x1000⟩
  | .call _ => ⟨"CALL", 0xF000, 0x2000⟩
  | .seVxNn _ _ => ⟨"SE_VX_NN", 0xF000, 0x3000⟩
  | .sneVxNn _ _ => ⟨"SNE_VX_NN", 0xF000, 0x4000⟩
  | .seVxVy _ _ => ⟨"SE_VX_VY", 0xF00F, 0x5000⟩
  | .ldVxNn _ _ => ⟨"LD_VX_NN", 0xF000, 0x6000⟩
  | .addVxNn _ _ => ⟨"ADD_VX_NN", 0xF000, 0x7000⟩
  | .ldVxVy _ _ => ⟨"LD_VX_VY", 0xF00F, 0x8000⟩
  | .or _ _ => ⟨"OR", 0xF00F, 0x8001⟩
  | .and _ _ => ⟨"AND", 0xF00F, 0x8002⟩
  | .xor _ _ => ⟨"XOR", 0xF00F, 0x8003⟩
  | .addVxVy _ _ => ⟨"ADD_VX_VY", 0xF00F, 0x8004⟩
  | .sub _ _ => ⟨"SUB", 0xF00F, 0x8005⟩
  | .shr _ _ => ⟨"SHR", 0xF00F, 0x8006⟩
  | .subn _ _ => ⟨"SUBN", 0xF00F, 0x8007⟩
  | .shl _ _ => ⟨"SHL", 0xF00F, 0x800E⟩
  | .sneVxVy _ _ => ⟨"SNE_VX_VY", 0xF00F, 0x9000⟩
  | .ldI _ => ⟨"LD_I", 0xF000, 0xA000⟩
  | .jpOff _ => ⟨"JP_OFF", 0xF000, 0xB000⟩
  | .rnd _ _ => ⟨"RND", 0xF000, 0xC000⟩
  | .drw _ _ _ => ⟨"DRW", 0xF000, 0xD000⟩
  | .skp _ => ⟨"SKP", 0xF0FF, 0xE09E⟩
  | .sknp _ => ⟨"SKNP", 0xF0FF, 0xE0A1⟩
  | .ldVxDt _ => ⟨"LD_VX_DT", 0xF0FF, 0xF007⟩
  | .ldVxK _ => ⟨"LD_VX_K", 0xF0FF, 0xF00A⟩
  | .ldDtVx _ => ⟨"LD_DT_VX", 0xF0FF, 0xF015⟩
  | .ldStVx _ => ⟨"LD_ST_VX", 0xF0FF, 0xF018⟩
  | .addI _ => ⟨"ADD_I", 0xF0FF, 0xF01E⟩
  | .ldF _ => ⟨"LD_F", 0xF0FF, 0xF029⟩
  | .ldB _ => ⟨"LD_B", 0xF0FF, 0xF033⟩
  | .stRegs _ => ⟨"ST_REGS", 0xF0FF, 0xF055⟩
  | .ldRegs _ => ⟨"LD_REGS", 0xF0FF, 0xF065⟩

end Sys2Proof
end

