-- ==== Sys2Proof/Machine/State.lean ====
section
/-! DEFINITION. The whole state of the block (spec/10_state.md R20 to R39) and its value after reset (R38, R230). -/

namespace Sys2Proof.Machine

/-- The six fault kinds, a closed enumeration (R200). A fault is latched in the state (R34, R208). -/
inductive FaultKind where
  /-- `pc` odd or above 0xFFE before the fetch (R201). -/
  | badProgramCounter
  /-- The fetched word matches no instruction (R202). -/
  | unimplementedOpcode
  /-- CALL with `sp = 64` (R203). -/
  | stackOverflow
  /-- RET with `sp = 0` (R204). -/
  | stackUnderflow
  /-- DRW, LD_B, ST_REGS or LD_REGS would touch an address above 0xFFF (R205). -/
  | memoryOutOfRange
  /-- SKP or SKNP with a register above 15 (R206). -/
  | keyIndexOutOfRange
  deriving DecidableEq, Repr

/-- The fault record `(kind, pc, word)` (R34): `pc` is the address of the step that raised it, `word` the word it fetched
(0x0000 for BadProgramCounter, which fetches nothing). -/
structure FaultRecord where
  kind : FaultKind
  pc : Word
  word : Word
  deriving DecidableEq, Repr

/-- Main memory: `(address, byte)` pairs in one canonical form (`Memory.wf`, Machine/Ops.lean); an unlisted address reads
as its reset contents (`Memory.unlisted`; log 6). -/
abbrev Memory := List Host.Cell

/-- One row of the display: 64 pixels, column 0 first (R30). -/
abbrev PixelRow := Vector Bool 64

/-- The display bitmap: 32 rows of 64 pixels (R30). -/
abbrev Display := Vector PixelRow 32

/-- The whole state of the block: the tuple of 10_state.md section 1, and the two fields of the model's own that stand for
the input `rnd` of a step (log 3). -/
structure State where
  /-- `V[0..15]` (R20). -/
  v : Vector Byte 16
  /-- `I`, the index register (R23). -/
  index : Word
  /-- The program counter (R24). -/
  pc : Word
  /-- The return stack (R26). -/
  stack : Vector Word 64
  /-- The number of stack entries in use, 0 to 64 (R27). -/
  sp : Fin 65
  /-- The delay timer (R28). -/
  dt : Byte
  /-- The sound timer (R28). -/
  st : Byte
  /-- The sixteen key flags, `true` pressed (R29). -/
  keys : Vector Bool 16
  /-- The display (R30). -/
  disp : Display
  /-- The quirk configuration `Q` (R31). -/
  quirks : Quirks
  /-- `wait_key`: the key whose release LD_VX_K waits for (R32). -/
  waitKey : Option (Fin 16)
  /-- The draw mark (R33). -/
  drawn : Bool
  /-- The latched fault; while it is not `none` the machine is halted (R34, R209). -/
  fault : Option FaultRecord
  /-- A `step` has been issued since the last `reset` (R35). -/
  started : Bool
  /-- Main memory (R50). -/
  mem : Memory
  /-- THE MODEL'S OWN (log 3): the byte argument of the step in progress, where the environment has named it (R5, R177). -/
  rndArg : Option Byte
  /-- THE MODEL'S OWN (log 3): which free value `Config.freeRndByte` stands for the byte where it has not. -/
  rndCount : Nat
  deriving DecidableEq, Repr

/-- Reasons for a step to STOP OUTSIDE the state. There are none: every fatal condition of the spec is a fault that the
step latches in the state (R208), after which `step` goes on answering the halted state (R209). So a step of this machine
never answers `Outcome.fault`, and nothing raises one (log 1). -/
inductive Fault where
  deriving DecidableEq, Repr

/-- Reasons for an instruction to have no meaning. -/
inductive Refusal where
  /-- Raised by an arm of `exec` for an instruction that has no meaning in the model; no arm does. Safe. -/
  | notModelled (mnemonic : String)
  deriving DecidableEq, Repr

/-- The state after `reset(q)` (R38, R230). `dt`, `st`, `waitKey`, `drawn`, `fault` and `started` have the values of the
spec's own decisions D15 and D22 (log 5); `rndArg` and `rndCount` are the model's (log 3). -/
def State.resetWith (q : Quirks) : State where
  v := Vector.replicate 16 0
  index := 0
  pc := BitVec.ofNat 16 Config.entry
  stack := Vector.replicate 64 0
  sp := 0
  dt := 0
  st := 0
  keys := Vector.replicate 16 false
  disp := Vector.replicate 32 (Vector.replicate 64 false)
  quirks := q
  waitKey := none
  drawn := false
  fault := none
  started := false
  mem := []
  rndArg := none
  rndCount := 0

/-- The machine right after reset, with the quirk argument the log names (log 4). -/
def State.reset : State := State.resetWith Config.resetQuirks

end Sys2Proof.Machine
end

