-- ==== Sys2Proof/Machine/Ops.lean ====
section
/-! DEFINITION. The named operations over memory, registers, stack, display and keys, and taking a fault (spec/20_memory.md,
spec/10_state.md, spec/60_exceptions.md R208). There is no return from a fault (R212), so none stands beside it. -/

namespace Sys2Proof.Machine

/-- What one instruction or step answers. -/
abbrev Result := Host.Outcome State Fault Refusal

/-! ### Memory (R50 to R64) -/

/-- What an address that is not listed reads as: the contents after `reset`, the font at 0x050 to 0x09F and 0x00 elsewhere
(R38, R56, R58; log 6). -/
def Memory.unlisted (a : Nat) : Byte :=
  if Config.fontBase ≤ a ∧ a < Config.fontBase + Config.fontLen then Config.font.getD (a - Config.fontBase) 0 else 0

/-- `MemRead(a, 1)` (R11). -/
def Memory.read (m : Memory) (a : Nat) : Byte :=
  match m with
  | [] => Memory.unlisted a
  | c :: rest => if c.1 = a then c.2 else Memory.read rest a

/-- Put a cell in front of the first one with a higher address. -/
def Memory.insert (c : Host.Cell) (m : Memory) : Memory :=
  match m with
  | [] => [c]
  | d :: rest => if c.1 < d.1 then c :: d :: rest else d :: Memory.insert c rest

/-- `MemWrite(a, 1, b)` (R11): changes that byte and nothing else (R59). Writing what an unlisted address reads as
unlists it, so that equal memories are equal lists. -/
def Memory.write (m : Memory) (a : Nat) (b : Byte) : Memory :=
  let others := m.filter fun c => decide (c.1 ≠ a)
  if b = Memory.unlisted a then others else Memory.insert (a, b) others

/-- Write bytes at `a`, `a + 1`, ... in ascending address order (R52). -/
def Memory.writeBytes (m : Memory) (a : Nat) (bytes : List Byte) : Memory :=
  match bytes with
  | [] => m
  | b :: rest => Memory.writeBytes (m.write a b) (a + 1) rest

/-- The bytes at `a`, `a + 1`, ..., `a + n - 1`, in that order. -/
def Memory.readBytes (m : Memory) (a n : Nat) : List Byte :=
  (List.range n).map fun k => m.read (a + k)

/-- Addresses strictly rising, all at least `low`. -/
def Memory.risingFrom (low : Nat) (m : Memory) : Bool :=
  match m with
  | [] => true
  | c :: rest => decide (low ≤ c.1) && Memory.risingFrom (c.1 + 1) rest

/-- The canonical form: addresses strictly rising, all inside the 4096-byte array (R50), and no entry equal to what an
unlisted address reads as. -/
def Memory.wf (m : Memory) : Bool :=
  m.risingFrom 0 && m.all fun c => decide (c.1 < Config.memSize) && decide (c.2 ≠ Memory.unlisted c.1)

/-! ### General registers (R20 to R22) -/

/-- `V[r]`. -/
def State.reg (s : State) (r : Reg) : Byte := s.v.get r

/-- `V[r] <- b`. -/
def State.setReg (s : State) (r : Reg) (b : Byte) : State := { s with v := s.v.set r.val b r.isLt }

/-! ### The other registers -/

/-- `I <- a`. -/
def State.setIndex (s : State) (a : Word) : State := { s with index := a }

/-- `pc <- target`: nothing is checked (R107). -/
def State.setPc (s : State) (target : Word) : State := { s with pc := target }

/-- `mem <- m`. -/
def State.setMem (s : State) (m : Memory) : State := { s with mem := m }

/-- `wait_key <- k`. -/
def State.setWaitKey (s : State) (k : Option (Fin 16)) : State := { s with waitKey := k }

/-- `DT <- b`. -/
def State.setDt (s : State) (b : Byte) : State := { s with dt := b }

/-- `ST <- b`. -/
def State.setSt (s : State) (b : Byte) : State := { s with st := b }

/-- `stack <- a`. -/
def State.setStack (s : State) (a : Vector Word 64) : State := { s with stack := a }

/-- `sp <- n`. -/
def State.setSp (s : State) (n : Fin 65) : State := { s with sp := n }

/-- `drawn <- b` (R33). -/
def State.setDrawn (s : State) (b : Bool) : State := { s with drawn := b }

/-- `fault <- f` (R34). -/
def State.setFault (s : State) (f : Option FaultRecord) : State := { s with fault := f }

/-- `started <- b` (R35). -/
def State.setStarted (s : State) (b : Bool) : State := { s with started := b }

/-- `Q <- q`: no instruction does this (R31). -/
def State.setQuirks (s : State) (q : Quirks) : State := { s with quirks := q }

/-- The model's own two fields for the random byte (log 3). -/
def State.setRnd (s : State) (arg : Option Byte) (count : Nat) : State := { s with rndArg := arg, rndCount := count }

/-! ### Program counter (R12, R24)

Inside an instruction `pc` already holds `pc0 + 2` (R12): `step` has advanced it. -/

/-- `pc0`, the address of the current instruction, seen from inside it. -/
def State.instrAddr (s : State) : Word := s.pc - 2

/-- A skip: `pc <- pc0 + 4` when the condition holds; otherwise `pc` stays `pc0 + 2`. -/
def State.skipIf (s : State) (c : Bool) : State := if c then s.setPc (s.pc + 2) else s

/-- A stall: `pc <- pc0` (R172). -/
def State.stall (s : State) : State := s.setPc s.instrAddr

/-! ### Return stack (R26, R27) -/

/-- Push a return address: `stack[sp] <- a`, then `sp <- sp + 1`; `none` when the stack is full. -/
def State.push (s : State) (a : Word) : Option State :=
  if h : s.sp.val < 64 then
    some ((s.setStack (s.stack.set s.sp.val a h)).setSp ⟨s.sp.val + 1, by omega⟩)
  else none

/-- Pop: `sp <- sp - 1`, and the entry `stack[sp]`, which stays in the array (R26, D20); `none` when the stack is empty. -/
def State.pop (s : State) : Option (Word × State) :=
  if h : 0 < s.sp.val then
    some (s.stack.get ⟨s.sp.val - 1, by omega⟩, s.setSp ⟨s.sp.val - 1, by omega⟩)
  else none

/-! ### Display (R30) -/

/-- `disp[y][x]`. -/
def Display.pixel (d : Display) (y : Fin 32) (x : Fin 64) : Bool := (d.get y).get x

/-- `disp[y][x] <- on`. -/
def Display.setPixel (d : Display) (y : Fin 32) (x : Fin 64) (on : Bool) : Display :=
  d.set y.val ((d.get y).set x.val on x.isLt) y.isLt

/-- Every pixel off. -/
def Display.clear : Display := Vector.replicate 32 (Vector.replicate 64 false)

/-- The pixel of the state's display. -/
def State.pixel (s : State) (y : Fin 32) (x : Fin 64) : Bool := s.disp.pixel y x

/-- `disp <- d`. -/
def State.setDisp (s : State) (d : Display) : State := { s with disp := d }

/-! ### Keys (R29, R172) -/

/-- `keys[k] = 1`. -/
def State.keyDown (s : State) (k : Fin 16) : Bool := s.keys.get k

/-- `lowest_pressed`: the least `k` with `keys[k] = 1`, or `none` (R172, D11). -/
def State.lowestPressed (s : State) : Option (Fin 16) := (List.finRange 16).find? fun k => s.keyDown k

/-! ### The random byte of the step (R37, R177; log 3) -/

/-- `rnd`: the byte the environment named for this step, or else a free value. -/
def State.rndByte (s : State) : Byte :=
  match s.rndArg with
  | some b => b
  | none => Config.freeRndByte s.rndCount

/-- The byte has been used: the next one is fresh. -/
def State.useRnd (s : State) : State := s.setRnd none (s.rndCount + 1)

/-! ### Taking a fault (R208) -/

/-- `fault <- (kind, pc0, word)` and `pc = pc0`. Every other field is as it stands, which is as it was before the step
(but for `started`), because every instruction checks before it writes. -/
def State.latchFault (s : State) (kind : FaultKind) (pc0 word : Word) : State :=
  (s.setPc pc0).setFault (some ⟨kind, pc0, word⟩)

/-- `raise kind` from inside the instruction `i` (R11, R208): a next state. The fetched word is `encode i`, since a word
is decoded to `i` only if it is the word of `i` (log 2). -/
def raiseFault (kind : FaultKind) (i : Instr) (s : State) : Result :=
  .next (s.latchFault kind s.instrAddr (encode i))

end Sys2Proof.Machine
end

