-- ==== Sys2Proof/Machine/Flags.lean ====
section
/-! DEFINITION. The flag computations (spec/10_state.md R21, R22; spec/41_immediate_and_alu.md R120, R127 to R131;
spec/42_index_and_memory.md R142) and the order of the two writes. -/

namespace Sys2Proof.Machine

/-- A flag in the 8-bit VF: 0x01 or 0x00 (R21). -/
def flagByte (f : Bool) : Byte := if f then 1 else 0

/-- Carry: the true sum is above 255 (R127). -/
def addCarry (a b : Byte) : Bool := decide (a.toNat + b.toNat > 255)

/-- NOT borrow of `a - b`: `a >= b` (R120, R128, R130). -/
def notBorrow (a b : Byte) : Bool := decide (b.toNat ≤ a.toNat)

/-- The bit SHR shifts out, bit 0 (R129). -/
def shiftedOutRight (v : Byte) : Bool := v.getLsbD 0

/-- The bit SHL shifts out, bit 7 (R131). -/
def shiftedOutLeft (v : Byte) : Bool := v.getLsbD 7

/-- ADD_I "overflows the addressable range": the true sum is above 0xFFF (R142, D9). -/
def indexOverflow (i : Word) (b : Byte) : Bool := decide (i.toNat + b.toNat > 0xFFF)

/-- `V[F] <- f` (R21). -/
def State.setFlag (s : State) (f : Bool) : State := s.setReg vf (flagByte f)

/-- Result to `V[x]` first, flag to VF second (R22, R132, D7; log 10). -/
def State.setResultThenFlag (s : State) (x : Reg) (r : Byte) (f : Bool) : State := (s.setReg x r).setFlag f

/-- A bitwise result: `V[x]`, then VF forced to 0 when `Q.LOGIC_RESETS_VF`, otherwise left (R124 to R126). -/
def State.setLogicResult (s : State) (x : Reg) (r : Byte) : State :=
  if s.quirks.logicResetsVf then s.setResultThenFlag x r false else s.setReg x r

end Sys2Proof.Machine
end

