-- ==== Sys2Proof/Machine/Operands.lean ====
section
/-! DEFINITION. The operand forms (spec/30_encoding.md R73, spec/42_index_and_memory.md R140, and the operand choices of the
quirks). A register or immediate operand needs no form of its own: it is `s.reg x` or the field. -/

namespace Sys2Proof.Machine

/-- `zext_16(NNN)` (R73). -/
def addressOf (nnn : BitVec 12) : Word := nnn.setWidth 16

/-- The effective address `I + offset`, an unbounded integer (R140): never wrapped at 16 bits. -/
def State.dataAddr (s : State) (offset : Nat) : Nat := s.index.toNat + offset

/-- The check before a data access to offsets 0 to `last`: the highest address is at most 0xFFF (R55, R140). -/
def State.dataInRange (s : State) (last : Nat) : Bool := decide (s.dataAddr last ≤ 0xFFF)

/-- The value SHR and SHL shift (R129, R131). -/
def State.shiftOperand (s : State) (x y : Reg) : Byte := if s.quirks.shiftUsesVy then s.reg y else s.reg x

/-- The register JP_OFF adds: `V[0]`, or the one numbered by the high nibble of NNN (R108). -/
def State.offsetReg (s : State) (nnn : BitVec 12) : Reg :=
  if s.quirks.jumpUsesV0 then 0 else (nnn.extractLsb' 8 4).toFin

/-- The key number a register names; `none` above 15 (R170, D6). -/
def keyOf (b : Byte) : Option (Fin 16) := if h : b.toNat < 16 then some ⟨b.toNat, h⟩ else none

/-- `V[0]` to `V[x]`, in that order (R145). -/
def State.regBlock (s : State) (x : Reg) : List Byte := s.v.toList.take (x.val + 1)

/-- `V[i] <- mem[I + i]` for `i` = 0 to `x`; the registers above are unchanged (R146). -/
def State.loadRegBlock (s : State) (x : Reg) : State :=
  { s with v := Vector.ofFn fun i : Fin 16 => if i ≤ x then s.mem.read (s.dataAddr i.val) else s.v.get i }

/-- `if Q.MEM_ADVANCES_I then I <- I + X + 1` (R145, R146). -/
def State.advanceIndex (s : State) (x : Reg) : State :=
  if s.quirks.memAdvancesI then s.setIndex (s.index + BitVec.ofNat 16 (x.val + 1)) else s

/-- The hundreds, tens and ones decimal digits of a byte (R144). -/
def decimalDigits (b : Byte) : List Byte :=
  [BitVec.ofNat 8 (b.toNat / 100), BitVec.ofNat 8 (b.toNat / 10 % 10), BitVec.ofNat 8 (b.toNat % 10)]

/-- The address of the glyph of a register's low nibble: `0x0050 + 5 * (b & 0x0F)` (R143). -/
def glyphAddr (b : Byte) : Word := BitVec.ofNat 16 (Config.fontBase + Config.glyphLen * (b &&& 0x0F).toNat)

end Sys2Proof.Machine
end

