-- ==== Sys2Proof/Machine/Alu.lean ====
section
/-! DEFINITION. Immediate and register-to-register ALU (spec/41_immediate_and_alu.md R120 to R133). All operands are read
as they stood at the start; the result is written first, VF last (R132). -/

namespace Sys2Proof.Machine

/-- LD_VX_NN (R121). -/
def execLdVxNn (x : Reg) (nn : Byte) (s : State) : Result := .next (s.setReg x nn)

/-- ADD_VX_NN (R122): wraps, no carry. -/
def execAddVxNn (x : Reg) (nn : Byte) (s : State) : Result := .next (s.setReg x (s.reg x + nn))

/-- LD_VX_VY (R123). -/
def execLdVxVy (x y : Reg) (s : State) : Result := .next (s.setReg x (s.reg y))

/-- OR (R124). -/
def execOr (x y : Reg) (s : State) : Result := .next (s.setLogicResult x (s.reg x ||| s.reg y))

/-- AND (R125). -/
def execAnd (x y : Reg) (s : State) : Result := .next (s.setLogicResult x (s.reg x &&& s.reg y))

/-- XOR (R126). -/
def execXor (x y : Reg) (s : State) : Result := .next (s.setLogicResult x (s.reg x ^^^ s.reg y))

/-- ADD_VX_VY (R127). -/
def execAddVxVy (x y : Reg) (s : State) : Result :=
  .next (s.setResultThenFlag x (s.reg x + s.reg y) (addCarry (s.reg x) (s.reg y)))

/-- SUB (R128). -/
def execSub (x y : Reg) (s : State) : Result :=
  .next (s.setResultThenFlag x (s.reg x - s.reg y) (notBorrow (s.reg x) (s.reg y)))

/-- SHR (R129). -/
def execShr (x y : Reg) (s : State) : Result :=
  .next (s.setResultThenFlag x (s.shiftOperand x y >>> 1) (shiftedOutRight (s.shiftOperand x y)))

/-- SUBN (R130). -/
def execSubn (x y : Reg) (s : State) : Result :=
  .next (s.setResultThenFlag x (s.reg y - s.reg x) (notBorrow (s.reg y) (s.reg x)))

/-- SHL (R131). -/
def execShl (x y : Reg) (s : State) : Result :=
  .next (s.setResultThenFlag x (s.shiftOperand x y <<< 1) (shiftedOutLeft (s.shiftOperand x y)))

end Sys2Proof.Machine
end

