-- ==== Sys2Proof/Machine/ControlFlow.lean ====
section
/-! DEFINITION. Control flow (spec/40_control_flow.md R100 to R108). In every meaning `s.pc` is `pc0 + 2` (R12). -/

namespace Sys2Proof.Machine

/-- RET (R100). -/
def execRet (s : State) : Result :=
  match s.pop with
  | none => raiseFault .stackUnderflow .ret s
  | some (a, t) => .next (t.setPc a)

/-- JP (R101). -/
def execJp (nnn : BitVec 12) (s : State) : Result := .next (s.setPc (addressOf nnn))

/-- CALL (R102): pushes the advanced `pc`, `pc0 + 2`. -/
def execCall (nnn : BitVec 12) (s : State) : Result :=
  match s.push s.pc with
  | none => raiseFault .stackOverflow (.call nnn) s
  | some t => .next (t.setPc (addressOf nnn))

/-- SE_VX_NN (R103). -/
def execSeVxNn (x : Reg) (nn : Byte) (s : State) : Result := .next (s.skipIf (s.reg x == nn))

/-- SNE_VX_NN (R104). -/
def execSneVxNn (x : Reg) (nn : Byte) (s : State) : Result := .next (s.skipIf (s.reg x != nn))

/-- SE_VX_VY (R105). -/
def execSeVxVy (x y : Reg) (s : State) : Result := .next (s.skipIf (s.reg x == s.reg y))

/-- SNE_VX_VY (R106). -/
def execSneVxVy (x y : Reg) (s : State) : Result := .next (s.skipIf (s.reg x != s.reg y))

/-- JP_OFF (R108): a 16-bit sum, not reduced to 12 bits (D21). -/
def execJpOff (nnn : BitVec 12) (s : State) : Result :=
  .next (s.setPc (addressOf nnn + (s.reg (s.offsetReg nnn)).setWidth 16))

end Sys2Proof.Machine
end

