-- ==== Sys2Proof/Machine/DisplayOps.lean ====
section
/-! DEFINITION. Display instructions: clear, and the sprite draw with its collision detector (spec/43_display.md R160 to
R162). -/

namespace Sys2Proof.Machine

/-- A display being drawn into, and whether a lit pixel has been turned off so far. -/
structure Drawing where
  disp : Display
  hit : Bool
  deriving DecidableEq, Repr

/-- A sprite bit that is 1 meets the pixel (R161): a lit one is turned off and is a collision, a dark one is turned on. -/
def Drawing.toggle (d : Drawing) (y : Fin 32) (x : Fin 64) : Drawing :=
  if d.disp.pixel y x then ⟨d.disp.setPixel y x false, true⟩ else ⟨d.disp.setPixel y x true, d.hit⟩

/-- The columns of one sprite byte, `columns` of 0 to 7 in turn, most significant bit first, the first at display column
`x0`; the loop ends at the right edge (R161). -/
def Drawing.byte (d : Drawing) (y : Fin 32) (x0 : Nat) (b : Byte) (columns : List Nat) : Drawing :=
  match columns with
  | [] => d
  | c :: rest =>
    if h : x0 + c < 64 then
      Drawing.byte (if b.getLsbD (7 - c) then d.toggle y ⟨x0 + c, h⟩ else d) y x0 b rest
    else d

/-- The rows of a sprite, downwards from display row `y`; the loop ends at the bottom edge (R161). -/
def Drawing.rows (d : Drawing) (y x0 : Nat) (sprite : List Byte) : Drawing :=
  match sprite with
  | [] => d
  | b :: rest =>
    if h : y < 32 then
      Drawing.rows (d.byte ⟨y, h⟩ x0 b (List.range 8)) (y + 1) x0 rest
    else d

/-- Start column `V[X] mod 64` (R161). -/
def State.drawColumn (s : State) (x : Reg) : Nat := (s.reg x).toNat % 64

/-- Start row `V[Y] mod 32` (R161). -/
def State.drawRow (s : State) (y : Reg) : Nat := (s.reg y).toNat % 32

/-- The rows drawn and read, `min(N, 32 - y0)`: clipped rows are not read (R161, D27). -/
def State.rowsDrawn (s : State) (y : Reg) (n : Nat) : Nat := min n (32 - s.drawRow y)

/-- No row drawn lies above address 0xFFF; with no row there is no access (R55, R161). -/
def State.spriteInRange (s : State) (y : Reg) (n : Nat) : Bool :=
  s.rowsDrawn y n == 0 || s.dataInRange (s.rowsDrawn y n - 1)

/-- The display and the collision after drawing (R161). The coordinates are those before VF is reset (D8). -/
def State.drawing (s : State) (x y : Reg) (n : Nat) : Drawing :=
  Drawing.rows ⟨s.disp, false⟩ (s.drawRow y) (s.drawColumn x) (s.mem.readBytes (s.dataAddr 0) (s.rowsDrawn y n))

/-- CLS (R160): the draw mark is not written (D13). -/
def execCls (s : State) : Result := .next (s.setDisp Display.clear)

/-- DRW (R161). -/
def execDrw (x y : Reg) (n : Nat) (s : State) : Result :=
  if s.spriteInRange y n then
    .next (((s.setDisp (s.drawing x y n).disp).setFlag (s.drawing x y n).hit).setDrawn true)
  else raiseFault .memoryOutOfRange (.drw x y n) s

end Sys2Proof.Machine
end

