-- ==== Sys2Proof/Machine/IndexMemory.lean ====
section
/-! DEFINITION. Index register and memory instructions (spec/42_index_and_memory.md R140 to R146). Each memory instruction
checks its highest address before it writes anything (R55, R140, D5). -/

namespace Sys2Proof.Machine

/-- LD_I (R141). -/
def execLdI (nnn : BitVec 12) (s : State) : Result := .next (s.setIndex (addressOf nnn))

/-- ADD_I (R142): `I` wraps at 16 bits; VF, after `I`, when `Q.ADDI_SETS_VF`. -/
def execAddI (x : Reg) (s : State) : Result :=
  let t := s.setIndex (s.index + (s.reg x).setWidth 16)
  .next (if s.quirks.addiSetsVf then t.setFlag (indexOverflow s.index (s.reg x)) else t)

/-- LD_F (R143): writes `I` only. -/
def execLdF (x : Reg) (s : State) : Result := .next (s.setIndex (glyphAddr (s.reg x)))

/-- LD_B (R144). -/
def execLdB (x : Reg) (s : State) : Result :=
  if s.dataInRange 2 then
    .next (s.setMem (s.mem.writeBytes (s.dataAddr 0) (decimalDigits (s.reg x))))
  else raiseFault .memoryOutOfRange (.ldB x) s

/-- ST_REGS (R145). -/
def execStRegs (x : Reg) (s : State) : Result :=
  if s.dataInRange x.val then
    .next ((s.setMem (s.mem.writeBytes (s.dataAddr 0) (s.regBlock x))).advanceIndex x)
  else raiseFault .memoryOutOfRange (.stRegs x) s

/-- LD_REGS (R146). -/
def execLdRegs (x : Reg) (s : State) : Result :=
  if s.dataInRange x.val then
    .next ((s.loadRegBlock x).advanceIndex x)
  else raiseFault .memoryOutOfRange (.ldRegs x) s

end Sys2Proof.Machine
end

