-- ==== Sys2Proof/Machine/KeysTimersRandom.lean ====
section
/-! DEFINITION. Key, timer and random instructions (spec/44_keys_timers_random.md R170 to R177). -/

namespace Sys2Proof.Machine

/-- SKP (R170). -/
def execSkp (x : Reg) (s : State) : Result :=
  match keyOf (s.reg x) with
  | none => raiseFault .keyIndexOutOfRange (.skp x) s
  | some k => .next (s.skipIf (s.keyDown k))

/-- SKNP (R171). -/
def execSknp (x : Reg) (s : State) : Result :=
  match keyOf (s.reg x) with
  | none => raiseFault .keyIndexOutOfRange (.sknp x) s
  | some k => .next (s.skipIf (!s.keyDown k))

/-- The key wait with the parameter KEYWAIT_RELEASE `true` (R172): first a key is seen pressed, then that key is seen
released. -/
def keyWaitRelease (x : Reg) (s : State) : State :=
  match s.waitKey with
  | none =>
    match s.lowestPressed with
    | none => s.stall
    | some k => (s.setWaitKey (some k)).stall
  | some k => if s.keyDown k then s.stall else (s.setReg x (BitVec.ofNat 8 k.val)).setWaitKey none

/-- The key wait with the parameter KEYWAIT_RELEASE `false` (R172): a key is seen pressed. -/
def keyWaitPress (x : Reg) (s : State) : State :=
  match s.lowestPressed with
  | none => s.stall
  | some k => s.setReg x (BitVec.ofNat 8 k.val)

/-- The key wait, both behaviours of R172. -/
def keyWait (release : Bool) (x : Reg) (s : State) : State :=
  if release then keyWaitRelease x s else keyWaitPress x s

/-- LD_VX_K (R172), with the value of KEYWAIT_RELEASE for this hardware (R8; log 7). -/
def execLdVxK (x : Reg) (s : State) : Result := .next (keyWait Config.keywaitRelease x s)

/-- LD_VX_DT (R173). -/
def execLdVxDt (x : Reg) (s : State) : Result := .next (s.setReg x s.dt)

/-- LD_DT_VX (R174). -/
def execLdDtVx (x : Reg) (s : State) : Result := .next (s.setDt (s.reg x))

/-- LD_ST_VX (R175). -/
def execLdStVx (x : Reg) (s : State) : Result := .next (s.setSt (s.reg x))

/-- RND (R177). -/
def execRnd (x : Reg) (nn : Byte) (s : State) : Result := .next ((s.setReg x (s.rndByte &&& nn)).useRnd)

end Sys2Proof.Machine
end

