-- ==== Sys2Proof/Machine/Fetch.lean ====
section
/-! DEFINITION. The common part of `step` (spec/30_encoding.md R70): the halt, the fetch check, the fetch, the advance and
the decode. -/

namespace Sys2Proof.Machine

/-- The machine is halted: `fault != none` (R209). -/
def State.halted (s : State) : Bool := s.fault.isSome

/-- `pc` is even and at most 0xFFE (R25). -/
def State.fetchable (s : State) : Bool := decide (s.pc.toNat % 2 = 0) && decide (s.pc.toNat ≤ 0xFFE)

/-- `MemRead(pc, 2)`: big-endian (R52, R70). -/
def State.fetchWord (s : State) : Word := wordOfBytes (s.mem.read s.pc.toNat) (s.mem.read (s.pc.toNat + 1))

/-- `started <- 1` (R35, R70). -/
def State.start (s : State) : State := s.setStarted true

/-- `pc <- pc0 + 2` (R70). -/
def State.advance (s : State) : State := s.setPc (s.pc + 2)

/-- The instruction of a fetched word, or UnimplementedOpcode (R70, R202). `s.pc` is `pc0`. -/
def runWord (w : Word) (s : State) : Result :=
  match decodeWord w with
  | none => .next (s.latchFault .unimplementedOpcode s.pc w)
  | some i => exec i s.advance

/-- The transaction `step` (R70), in its order: started, halted, fetch check, fetch, advance, decode, execute. -/
def runStep (s : State) : Result :=
  if s.halted then .next s.start
  else if s.fetchable then runWord s.fetchWord s.start
  else .next (s.start.latchFault .badProgramCounter s.pc 0x0000)

/-- A word stored big-endian at an address (R52). -/
def State.storeWord (s : State) (a : Nat) (w : Word) : State :=
  s.setMem ((s.mem.write a (hiByte w)).write (a + 1) (loByte w))

end Sys2Proof.Machine
end

