-- ==== Sys2Proof/Machine/Step.lean ====
section
/-! DEFINITION. The step of the machine (spec/30_encoding.md R70), and where it fetches its next instruction. -/

namespace Sys2Proof.Machine

/-- The transaction `step` (R70). -/
def step (s : State) : Host.Outcome State Fault Refusal := runStep s

/-- `s` with an instruction, its bits numbered as spec/opcode_table.json numbers them, stored at `pc`, where the next step
fetches. Where the next step fetches nothing, because `pc` is odd or above 0xFFE (R201), `s` itself (log 12). -/
def State.withFetchWord (s : State) (nbits w : Nat) : State :=
  if s.fetchable then s.storeWord s.pc.toNat (BitVec.ofNat 16 (w % 2 ^ nbits)) else s

end Sys2Proof.Machine
end

