-- ==== Sys2Proof/Machine/Transactions.lean ====
section
/-! DEFINITION. The six transactions by which the agents act on the block (spec/00_scope.md R4, R5;
spec/70_reset_and_hazards.md R230 to R236, R246). Each is atomic; a list of them is one interleaving (R61, R222; log 11). -/

namespace Sys2Proof.Machine

/-- A timer counts down and stays at 0 (R221). -/
def countDown (b : Byte) : Byte := if b.toNat > 0 then b - 1 else b

/-- `tick` (R221): nothing while halted (R209). -/
def State.tick (s : State) : State :=
  if s.halted then s else (s.setDt (countDown s.dt)).setSt (countDown s.st)

/-- `set_keys(k)` (R29): replaces all sixteen flags. -/
def State.setKeys (s : State) (k : Vector Bool 16) : State := { s with keys := k }

/-- `clear_drawn` (R33). -/
def State.clearDrawn (s : State) : State := s.setDrawn false

/-- What `load` returns to the host (R233, R234, R246). -/
inductive LoadStatus where
  | ok
  | imageTooLarge
  | refused
  deriving DecidableEq, Repr

/-- The status of `load(bytes)`: refused once a step has been issued (R234), else by the length (R233). -/
def State.loadStatus (s : State) (bytes : List Byte) : LoadStatus :=
  if s.started then .refused
  else if bytes.length > Config.imageMax then .imageTooLarge
  else .ok

/-- `load(bytes)` (R233): the bytes from 0x200 on; a refused or failed load changes nothing. -/
def State.load (s : State) (bytes : List Byte) : State :=
  match s.loadStatus bytes with
  | .ok => s.setMem (s.mem.writeBytes Config.entry bytes)
  | .imageTooLarge => s
  | .refused => s

/-- `step(rnd)` with the byte the environment names (R5, R70, R177). The byte belongs to this step alone (log 3). -/
def stepWith (rnd : Byte) (s : State) : Result :=
  match step (s.setRnd (some rnd) s.rndCount) with
  | .next t => .next (t.setRnd none t.rndCount)
  | .fault r => .fault r
  | .refused r => .refused r

/-- The six transactions (R5). -/
inductive Transaction where
  | reset (q : Quirks)
  | load (bytes : List Byte)
  | setKeys (k : Vector Bool 16)
  | step (rnd : Byte)
  | tick
  | clearDrawn
  deriving DecidableEq, Repr

/-- One transaction (R5, R246). -/
def perform (t : Transaction) (s : State) : Result :=
  match t with
  | .reset q => .next (State.resetWith q)
  | .load bytes => .next (s.load bytes)
  | .setKeys k => .next (s.setKeys k)
  | .step rnd => stepWith rnd s
  | .tick => .next s.tick
  | .clearDrawn => .next s.clearDrawn

/-- Transactions in order, each seeing the state the one before it left (R5). -/
def performAll (ts : List Transaction) (s : State) : Result :=
  match ts with
  | [] => .next s
  | t :: rest =>
    match perform t s with
    | .next s' => performAll rest s'
    | .fault r => .fault r
    | .refused r => .refused r

end Sys2Proof.Machine
end

