-- ==== Sys2Proof/Safety.lean ====
section
/-! DEFINITION. The terms claims are stated in: frames, who writes what (spec/10_state.md section 14), when a fault is due
(spec/60_exceptions.md R200, R210), the invariant of the machine, a launched program (R247) and a safe run. -/

namespace Sys2Proof.Machine

/-! ### Frames -/

/-- The pieces of state other than the general registers. -/
inductive Piece where
  | index
  | pc
  | stack
  | sp
  | dt
  | st
  | keys
  | disp
  | quirks
  | waitKey
  | drawn
  | fault
  | started
  | mem
  | rnd
  deriving DecidableEq, Repr

/-- A piece of state is the same in two states; memory by the read of every byte. -/
def Piece.same (p : Piece) (s t : State) : Prop :=
  match p with
  | .index => t.index = s.index
  | .pc => t.pc = s.pc
  | .stack => t.stack = s.stack
  | .sp => t.sp = s.sp
  | .dt => t.dt = s.dt
  | .st => t.st = s.st
  | .keys => t.keys = s.keys
  | .disp => t.disp = s.disp
  | .quirks => t.quirks = s.quirks
  | .waitKey => t.waitKey = s.waitKey
  | .drawn => t.drawn = s.drawn
  | .fault => t.fault = s.fault
  | .started => t.started = s.started
  | .mem => ∀ a, t.mem.read a = s.mem.read a
  | .rnd => t.rndArg = s.rndArg ∧ t.rndCount = s.rndCount

/-- Everything is the same but the registers and the pieces named. -/
def SameExcept (regs : List Reg) (parts : List Piece) (s t : State) : Prop :=
  (∀ r, r ∉ regs → t.reg r = s.reg r) ∧ ∀ p, p ∉ parts → p.same s t

/-! ### Who writes what (10_state.md section 14, R21) -/

/-- The general registers an instruction may write: its destination, and VF where it writes a flag (R21). -/
def writesReg (q : Quirks) (i : Instr) (r : Reg) : Bool :=
  match i with
  | .ldVxNn x _ | .addVxNn x _ | .ldVxVy x _ | .rnd x _ | .ldVxDt x | .ldVxK x => r == x
  | .or x _ | .and x _ | .xor x _ => r == x || (q.logicResetsVf && r == vf)
  | .addVxVy x _ | .sub x _ | .shr x _ | .subn x _ | .shl x _ => r == x || r == vf
  | .addI _ => q.addiSetsVf && r == vf
  | .drw _ _ _ => r == vf
  | .ldRegs x => decide (r ≤ x)
  | .cls | .ret | .jp _ | .call _ | .seVxNn _ _ | .sneVxNn _ _ | .seVxVy _ _ | .sneVxVy _ _ | .ldI _ | .jpOff _
  | .skp _ | .sknp _ | .ldDtVx _ | .ldStVx _ | .ldF _ | .ldB _ | .stRegs _ => false

/-- The instructions that can raise a fault (R200, R210). -/
def canFault (i : Instr) : Bool :=
  match i with
  | .ret | .call _ | .drw _ _ _ | .skp _ | .sknp _ | .ldB _ | .stRegs _ | .ldRegs _ => true
  | .cls | .jp _ | .seVxNn _ _ | .sneVxNn _ _ | .seVxVy _ _ | .ldVxNn _ _ | .addVxNn _ _ | .ldVxVy _ _ | .or _ _
  | .and _ _ | .xor _ _ | .addVxVy _ _ | .sub _ _ | .shr _ _ | .subn _ _ | .shl _ _ | .sneVxVy _ _ | .ldI _ | .jpOff _
  | .rnd _ _ | .ldVxDt _ | .ldVxK _ | .ldDtVx _ | .ldStVx _ | .addI _ | .ldF _ => false

/-- The instructions that may set `pc` to something other than `pc0 + 2` when they complete (R24). -/
def transfersControl (i : Instr) : Bool :=
  match i with
  | .ret | .jp _ | .call _ | .jpOff _ | .seVxNn _ _ | .sneVxNn _ _ | .seVxVy _ _ | .sneVxVy _ _ | .skp _ | .sknp _
  | .ldVxK _ => true
  | .cls | .ldVxNn _ _ | .addVxNn _ _ | .ldVxVy _ _ | .or _ _ | .and _ _ | .xor _ _ | .addVxVy _ _ | .sub _ _ | .shr _ _
  | .subn _ _ | .shl _ _ | .ldI _ | .rnd _ _ | .drw _ _ _ | .ldVxDt _ | .ldDtVx _ | .ldStVx _ | .addI _ | .ldF _
  | .ldB _ | .stRegs _ | .ldRegs _ => false

/-- The pieces of state an instruction may write (10_state.md section 14). -/
def writesPiece (q : Quirks) (i : Instr) (p : Piece) : Bool :=
  match p with
  | .index => match i with
    | .ldI _ | .addI _ | .ldF _ => true
    | .stRegs _ | .ldRegs _ => q.memAdvancesI
    | _ => false
  | .pc => transfersControl i || canFault i
  | .stack => match i with
    | .call _ => true
    | _ => false
  | .sp => match i with
    | .call _ | .ret => true
    | _ => false
  | .dt => match i with
    | .ldDtVx _ => true
    | _ => false
  | .st => match i with
    | .ldStVx _ => true
    | _ => false
  | .disp => match i with
    | .cls | .drw _ _ _ => true
    | _ => false
  | .mem => match i with
    | .ldB _ | .stRegs _ => true
    | _ => false
  | .waitKey => match i with
    | .ldVxK _ => true
    | _ => false
  | .drawn => match i with
    | .drw _ _ _ => true
    | _ => false
  | .rnd => match i with
    | .rnd _ _ => true
    | _ => false
  | .fault => canFault i
  | .keys | .quirks | .started => false

/-- Which quirk flags an instruction reads (R31): two configurations that agree on them are the same to it. -/
def sameQuirksFor (i : Instr) (q r : Quirks) : Prop :=
  match i with
  | .or _ _ | .and _ _ | .xor _ _ => q.logicResetsVf = r.logicResetsVf
  | .stRegs _ | .ldRegs _ => q.memAdvancesI = r.memAdvancesI
  | .addI _ => q.addiSetsVf = r.addiSetsVf
  | .shr _ _ | .shl _ _ => q.shiftUsesVy = r.shiftUsesVy
  | .jpOff _ => q.jumpUsesV0 = r.jumpUsesV0
  | .cls | .ret | .jp _ | .call _ | .seVxNn _ _ | .sneVxNn _ _ | .seVxVy _ _ | .ldVxNn _ _ | .addVxNn _ _ | .ldVxVy _ _
  | .addVxVy _ _ | .sub _ _ | .subn _ _ | .sneVxVy _ _ | .ldI _ | .rnd _ _ | .drw _ _ _ | .skp _ | .sknp _ | .ldVxDt _
  | .ldVxK _ | .ldDtVx _ | .ldStVx _ | .ldF _ | .ldB _ => True

/-- Change the state an outcome carries. -/
def mapNext (f : State → State) (o : Result) : Result :=
  match o with
  | .next t => .next (f t)
  | .fault r => .fault r
  | .refused r => .refused r

/-! ### When a fault is due (R200, R210) -/

/-- The fault the decoded instruction raises in the state at its fetch, by the table of R200; at most one kind each. -/
def State.instrFaultDue (s : State) (i : Instr) : Option FaultKind :=
  match i with
  | .call _ => if s.sp.val = 64 then some .stackOverflow else none
  | .ret => if s.sp.val = 0 then some .stackUnderflow else none
  | .drw _ y n =>
    if 1 ≤ min n (32 - (s.reg y).toNat % 32) ∧ s.index.toNat + min n (32 - (s.reg y).toNat % 32) - 1 > 0xFFF
    then some .memoryOutOfRange else none
  | .ldB _ => if s.index.toNat + 2 > 0xFFF then some .memoryOutOfRange else none
  | .stRegs x => if s.index.toNat + x.val > 0xFFF then some .memoryOutOfRange else none
  | .ldRegs x => if s.index.toNat + x.val > 0xFFF then some .memoryOutOfRange else none
  | .skp x => if (s.reg x).toNat > 15 then some .keyIndexOutOfRange else none
  | .sknp x => if (s.reg x).toNat > 15 then some .keyIndexOutOfRange else none
  | .cls | .jp _ | .seVxNn _ _ | .sneVxNn _ _ | .seVxVy _ _ | .ldVxNn _ _ | .addVxNn _ _ | .ldVxVy _ _ | .or _ _
  | .and _ _ | .xor _ _ | .addVxVy _ _ | .sub _ _ | .shr _ _ | .subn _ _ | .shl _ _ | .sneVxVy _ _ | .ldI _ | .jpOff _
  | .rnd _ _ | .ldVxDt _ | .ldVxK _ | .ldDtVx _ | .ldStVx _ | .addI _ | .ldF _ => none

/-- The record a step from this state latches, by the order of R210: the fetch check, the decode, the instruction's own
check. -/
def State.faultDue (s : State) : Option FaultRecord :=
  if s.pc.toNat % 2 = 1 ∨ s.pc.toNat > 0xFFE then some ⟨.badProgramCounter, s.pc, 0x0000⟩
  else
    match decodeWord (s.mem.read s.pc.toNat ++ s.mem.read (s.pc.toNat + 1)) with
    | none => some ⟨.unimplementedOpcode, s.pc, s.mem.read s.pc.toNat ++ s.mem.read (s.pc.toNat + 1)⟩
    | some i =>
      match s.instrFaultDue i with
      | none => none
      | some kind => some ⟨kind, s.pc, s.mem.read s.pc.toNat ++ s.mem.read (s.pc.toNat + 1)⟩

/-! ### The display of a drawn sprite (R161) -/

/-- A 1 bit of the clipped sprite falls on the pixel: `x0`, `y0` the start, `rows` the rows drawn. -/
def State.spriteOn (s : State) (x y : Reg) (n : Nat) (py : Fin 32) (px : Fin 64) : Bool :=
  let x0 := (s.reg x).toNat % 64
  let y0 := (s.reg y).toNat % 32
  decide (y0 ≤ py.val ∧ py.val < y0 + n ∧ x0 ≤ px.val ∧ px.val < x0 + 8) &&
    (s.mem.read (s.index.toNat + (py.val - y0))).getLsbD (7 - (px.val - x0))

/-! ### The invariant -/

/-- What holds of every state a run reaches. -/
structure State.Inv (s : State) : Prop where
  /-- Memory keeps its canonical form, inside the 4096 bytes (R50). -/
  memory : s.mem.wf = true
  /-- The largest value any rule can put in `pc` (R25). -/
  pcBound : s.pc.toNat ≤ 0x10FE
  /-- The entries in use are what CALL pushed: even and at most 4096 (R100). -/
  liveStack : ∀ k : Fin 64, k.val < s.sp.val → (s.stack.get k).toNat % 2 = 0 ∧ (s.stack.get k).toNat ≤ 4096
  /-- While a key is awaited the instruction at `pc` is the LD_VX_K that waits (R32), and the machine runs. -/
  awaiting : s.waitKey ≠ none → s.started = true ∧ s.fault = none ∧ s.faultDue = none ∧
    ∃ x, decodeWord (s.mem.read s.pc.toNat ++ s.mem.read (s.pc.toNat + 1)) = some (.ldVxK x)
  /-- A latched record is the fault that is due in the state left behind (R200, R208), and a step has been issued. -/
  latched : ∀ f, s.fault = some f → s.started = true ∧ s.faultDue = some f

/-! ### Runs -/

/-- The launch premises of a claim about a program (R247). -/
def State.Launched (q : Quirks) (bytes : List Byte) (s : State) : Prop :=
  (State.resetWith q).loadStatus bytes = .ok ∧ s = (State.resetWith q).load bytes

/-- A safe run of `n` steps: it answers a state in which no fault is latched (R209: a halted state is never a good end). -/
def SafeFor (n : Nat) (s : State) : Prop :=
  ∃ t : State, Sys2Proof.core.run n s = .next t ∧ t.fault = none

end Sys2Proof.Machine
end

