-- ==== Sys2Proof/Certificates/Slice0/Obligations.lean ====
section
/-! DEFINITION. The statements of this row. Each docstring names the rules or the sections it rests on. Inside an
instruction `pc` holds `pc0 + 2` (R12), so an instruction at `pc0` is run as `exec i (s.setPc (pc0 + 2))`; the `set`
updates are those of Machine/Ops.lean. A statement that rests on a decision of the spec's own (D<n> of
92_eei_decisions.md), on the spec's general knowledge or on a convention of this model (log <n>) is "derived" and says
so. -/

open Sys2Proof Sys2Proof.Machine

/-! ### Encoding and decoding -/

/-- Decode and encode agree, for every well-formed instruction and whatever bytes follow it: no operand bit is dropped
(30_encoding.md sections 2 to 4; opcode numbers D18, log 8). -/
def Obligations.DecodeOfEncodeIsTheInstruction : Prop :=
  ∀ (i : Instr) (rest : List Byte), i.wellFormed = true →
    decodeWord (encode i) = some i ∧ decodeBytes (hiByte (encode i) :: loByte (encode i) :: rest) = .ok (i, rest)

/-- A word that decodes is the word of the instruction it decodes to, which is well formed: so the word a fault records is
the word fetched (30_encoding.md section 4: the rows are disjoint and no bit is ignored; log 2, log 8). -/
def Obligations.EncodeOfDecodeIsTheWord : Prop :=
  ∀ (w : Word) (i : Instr), decodeWord w = some i → i.wellFormed = true ∧ encode i = w

/-- The dispatch on nibbles agrees with the opcode map: a word decodes to an instruction exactly when it matches that
instruction's row under the mask; so the rows are disjoint (30_encoding.md section 4, opcode_table.json; D18, log 8). -/
def Obligations.DecodeAgreesWithTheOpcodeMap : Prop :=
  ∀ w : Word,
    (∀ i, decodeWord w = some i → rowOf i ∈ opcodeRows ∧ w &&& (rowOf i).mask = (rowOf i).pattern) ∧
    (∀ r ∈ opcodeRows, w &&& r.mask = r.pattern → ∃ i, decodeWord w = some i ∧ rowOf i = r)

/-- The illegal words are the sets (a) to (f) the spec lists, by the nibbles of the word (30_encoding.md section 5; the zero
low nibble of op 5 and 9 is D10, log 8). -/
def Obligations.IllegalWordsAreTheListedSets : Prop :=
  ∀ w : Word, decodeWord w = none ↔
    (w.toNat / 4096 = 0 ∧ w.toNat ≠ 0x00E0 ∧ w.toNat ≠ 0x00EE) ∨
    (w.toNat / 4096 = 5 ∧ w.toNat % 16 ≠ 0) ∨
    (w.toNat / 4096 = 8 ∧ w.toNat % 16 ∈ [8, 9, 0xA, 0xB, 0xC, 0xD, 0xF]) ∨
    (w.toNat / 4096 = 9 ∧ w.toNat % 16 ≠ 0) ∨
    (w.toNat / 4096 = 0xE ∧ w.toNat % 256 ∉ [0x9E, 0xA1]) ∨
    (w.toNat / 4096 = 0xF ∧ w.toNat % 256 ∉ [0x07, 0x0A, 0x15, 0x18, 0x1E, 0x29, 0x33, 0x55, 0x65])

/-- Words written out from the patterns of the opcode map decode to the instructions they stand for (30_encoding.md section
4; D18, log 8). -/
def Obligations.WrittenOutWordsDecode : Prop :=
  decodeWord 0b0000000011101110#16 = some .ret ∧
  decodeWord 0b0001001000000100#16 = some (.jp 0x204) ∧
  decodeWord 0b0100101000010000#16 = some (.sneVxNn 0xA 0x10) ∧
  decodeWord 0b1000000100100100#16 = some (.addVxVy 1 2) ∧
  decodeWord 0b1010001011110000#16 = some (.ldI 0x2F0) ∧
  decodeWord 0b1101000000010010#16 = some (.drw 0 1 2) ∧
  decodeWord 0b1110001110011110#16 = some (.skp 3) ∧
  decodeWord 0b1111001000001010#16 = some (.ldVxK 2) ∧
  decodeWord 0b1111001001010101#16 = some (.stRegs 2)

/-! ### The step -/

/-- A step of a machine that is not halted, whose `pc` is even and at most 0xFFE and whose two bytes there decode to `i`, is
`exec` of `i` with `started` set and `pc` advanced (30_encoding.md section 1; the items 1 to 3 are D2, D4, D22; log 2). -/
def Obligations.StepRunsTheDecodedInstruction : Prop :=
  ∀ (s : State) (i : Instr), s.fault = none → s.pc.toNat % 2 = 0 → s.pc.toNat ≤ 0xFFE →
    decodeWord (s.mem.read s.pc.toNat ++ s.mem.read (s.pc.toNat + 1)) = some i →
    step s = exec i ((s.setStarted true).setPc (s.pc + 2))

/-- An instruction's word stored where the next step fetches is what the next step runs, and the rest of memory is as before
(the model's convention for loading one instruction, log 12; 30_encoding.md section 1). -/
def Obligations.StoredWordIsRunNext : Prop :=
  ∀ (s : State) (i : Instr), s.fault = none → s.pc.toNat % 2 = 0 → s.pc.toNat ≤ 0xFFE → i.wellFormed = true →
    step (s.withFetchWord 16 (encode i).toNat) =
      exec i (((s.withFetchWord 16 (encode i).toNat).setStarted true).setPc (s.pc + 2)) ∧
    ∀ a, a ≠ s.pc.toNat → a ≠ s.pc.toNat + 1 → (s.withFetchWord 16 (encode i).toNat).mem.read a = s.mem.read a

/-- Every step, from every state, answers a next state: a fault is latched in the state, never a stop outside it
(60_exceptions.md sections 1 and 2, D2; log 1); and it sets `started` (10_state.md section 10). -/
def Obligations.EveryStepAnswersANextState : Prop :=
  ∀ s : State, ∃ t, step s = .next t ∧ t.started = true

/-- A step latches exactly the fault that is due, by the table of the six kinds and in the order fetch check, decode,
instruction; and none when none is due (60_exceptions.md sections 1 and 3; D4, D5, D6, D10). -/
def Obligations.FaultLatchedIsTheFaultDue : Prop :=
  ∀ s t : State, s.fault = none → step s = .next t → t.fault = s.faultDue

/-- Faults are precise: the step that raises one leaves every other piece of state, `pc` included, as it was, and the record
holds `pc0` (60_exceptions.md section 2, D3). -/
def Obligations.FaultingStepChangesNothingElse : Prop :=
  ∀ (s t : State) (f : FaultRecord), s.fault = none → step s = .next t → t.fault = some f →
    t = (s.setFault (some f)).setStarted true ∧ f.pc = s.pc

/-- While halted, a step changes nothing but `started`, a tick changes nothing, and no transaction but reset changes the
record or ends the halt (60_exceptions.md section 2, D2). -/
def Obligations.HaltedMachineWaitsForReset : Prop :=
  ∀ (s : State), s.fault ≠ none →
    step s = .next (s.setStarted true) ∧ s.tick = s ∧
    ∀ (tr : Transaction) (t : State), (∀ q, tr ≠ .reset q) → perform tr s = .next t → t.fault = s.fault

/-! ### Invariants -/

/-- The invariant holds after reset, whatever the quirks (10_state.md section 12, 20_memory.md section 2; reset values D15,
log 5). -/
def Obligations.InvariantHoldsAfterReset : Prop :=
  ∀ q : Quirks, (State.resetWith q).Inv

/-- Every step keeps the invariant: canonical memory inside 4096 bytes, `pc` at most 0x10FE, the stack entries in use even
and at most 4096, the awaited key's LD_VX_K at `pc`, and a latched record that is the fault due (10_state.md sections 5, 6
and 10; 40_control_flow.md section 2; 60_exceptions.md section 2). -/
def Obligations.EveryStepKeepsTheInvariant : Prop :=
  ∀ s t : State, s.Inv → step s = .next t → t.Inv

/-- Every interleaving of the six transactions keeps the invariant (00_scope.md section 4, 70_reset_and_hazards.md sections
1 to 3; log 11). -/
def Obligations.EveryInterleavingKeepsTheInvariant : Prop :=
  ∀ (trs : List Transaction) (s t : State), s.Inv → performAll trs s = .next t → t.Inv

/-! ### Whole-machine rules -/

/-- R31: reset stores its argument; no other transaction and no instruction changes a quirk flag; and a flag is read only by
the instructions named for it (any other configuration that agrees on it gives the same effect). -/
def Obligations.QuirkFlagsAreFixedAndLocal : Prop :=
  (∀ q : Quirks, (State.resetWith q).quirks = q) ∧
  (∀ (tr : Transaction) (s t : State), (∀ q, tr ≠ .reset q) → perform tr s = .next t → t.quirks = s.quirks) ∧
  (∀ (i : Instr) (s : State) (q : Quirks), sameQuirksFor i s.quirks q →
    exec i (s.setQuirks q) = mapNext (fun t => t.setQuirks q) (exec i s))

/-- An instruction writes no register and no piece of state but those the "who writes what" table gives it (10_state.md
section 14, section 3; `pc` and `fault` also by the faults of 60_exceptions.md section 1). -/
def Obligations.InstructionsWriteOnlyWhatTheTableGives : Prop :=
  ∀ (i : Instr) (s t : State), exec i s = .next t →
    (∀ r, writesReg s.quirks i r = false → t.reg r = s.reg r) ∧
    (∀ p, writesPiece s.quirks i p = false → p.same s t)

/-- No instruction reads the sound timer, the draw mark, the fault record or `started`: with other values of them it does
the same to everything else (10_state.md sections 7 and 10). -/
def Obligations.HostOnlyStateIsNeverRead : Prop :=
  ∀ (i : Instr) (s : State) (b : Byte) (d : Bool) (f : Option FaultRecord) (g : Bool),
    ∃ t u, exec i s = .next t ∧ exec i ((((s.setSt b).setDrawn d).setFault f).setStarted g) = .next u ∧
      (((u.setSt t.st).setDrawn t.drawn).setFault t.fault).setStarted t.started = t

/-- Every instruction but RND ignores the random byte of the step (44_keys_timers_random.md section 4, D14; log 3). -/
def Obligations.OnlyRndReadsTheRandomByte : Prop :=
  ∀ (i : Instr) (s : State) (a : Option Byte) (n : Nat), (∀ x nn, i ≠ .rnd x nn) →
    exec i (s.setRnd a n) = mapNext (fun t => t.setRnd a n) (exec i s)

/-! ### Reset, load, timers, keys, runs -/

/-- After `reset(q)` every piece of state has the value of the table, whatever the state before (10_state.md section 12;
`dt`, `st`, `waitKey`, `drawn`, `fault`, `started` by D15 and D22, log 5; the font bytes by D17, log 6). -/
def Obligations.ResetLeavesTheTableValues : Prop :=
  ∀ (q : Quirks) (s : State), ∃ t, perform (.reset q) s = .next t ∧
    (∀ r, t.reg r = 0) ∧ t.index = 0 ∧ t.pc = 0x0200 ∧ (∀ k, t.stack.get k = 0) ∧ t.sp.val = 0 ∧ t.dt = 0 ∧ t.st = 0 ∧
    (∀ k, t.keyDown k = false) ∧ (∀ y x, t.pixel y x = false) ∧ t.quirks = q ∧ t.waitKey = none ∧ t.drawn = false ∧
    t.fault = none ∧ t.started = false ∧
    (∀ a, a < 0x50 ∨ 0x9F < a → t.mem.read a = 0) ∧
    (∀ d k, d < 16 → k < 5 → t.mem.read (0x50 + 5 * d + k) = Config.font.getD (5 * d + k) 0)

/-- R233: a load before the first step of at most 3584 bytes copies them from 0x200 on and writes nothing else; a longer one
returns ImageTooLarge and changes nothing. -/
def Obligations.LoadCopiesTheImageOrChangesNothing : Prop :=
  ∀ (s : State) (bytes : List Byte), s.started = false →
    (bytes.length ≤ 3584 → s.loadStatus bytes = .ok ∧
      (∀ (i : Nat) (h : i < bytes.length), (s.load bytes).mem.read (0x200 + i) = bytes[i]) ∧
      (∀ a, a < 0x200 ∨ 0x200 + bytes.length ≤ a → (s.load bytes).mem.read a = s.mem.read a) ∧
      SameExcept [] [.mem] s (s.load bytes)) ∧
    (3584 < bytes.length → s.loadStatus bytes = .imageTooLarge ∧ s.load bytes = s)

/-- A load after a step has been issued is refused and changes nothing, and every step closes the window
(70_reset_and_hazards.md section 2, D22). -/
def Obligations.LoadIsRefusedAfterAStep : Prop :=
  ∀ (s t : State) (rnd : Byte) (bytes : List Byte), stepWith rnd s = .next t →
    t.loadStatus bytes = .refused ∧ t.load bytes = t

/-- After `n` ticks of a machine that is not halted each timer is `n` lower, and 0 once it has run out, independently of the
other; nothing else changes (60_exceptions.md section 7). -/
def Obligations.TicksCountDownToZero : Prop :=
  ∀ (s : State) (n : Nat), s.fault = none → ∃ t, performAll (List.replicate n .tick) s = .next t ∧
    t.dt.toNat = s.dt.toNat - n ∧ t.st.toNat = s.st.toNat - n ∧ SameExcept [] [.dt, .st] s t

/-- `set_keys` replaces the key state and `clear_drawn` clears the mark, in any state, halted or not, and each writes
nothing else (10_state.md sections 8 and 10; D13, D23). -/
def Obligations.HostWritesKeysAndClearsTheMark : Prop :=
  ∀ (s : State) (k : Vector Bool 16),
    (∃ t, perform (.setKeys k) s = .next t ∧ (∀ j, t.keyDown j = k.get j) ∧ SameExcept [] [.keys] s t) ∧
    (∃ t, perform .clearDrawn s = .next t ∧ t.drawn = false ∧ SameExcept [] [.drawn] s t)

/-- A launched program's first step runs the instruction of the image's first two bytes, high byte first, from 0x200
(70_reset_and_hazards.md sections 3 and 7; 20_memory.md section 3). -/
def Obligations.LaunchedProgramStartsAtItsFirstWord : Prop :=
  ∀ (q : Quirks) (hi lo : Byte) (rest : List Byte) (s : State) (i : Instr),
    s.Launched q (hi :: lo :: rest) → decodeWord (hi ++ lo) = some i →
    step s = exec i ((s.setStarted true).setPc 0x0202) ∧ s.fault = none ∧ s.started = false

/-- A jump to its own address changes no state, for any number of steps: such a run is safe for ever
(70_reset_and_hazards.md section 4; 40_control_flow.md section 2). -/
def Obligations.JumpToSelfRunsForEver : Prop :=
  ∀ (s : State) (nnn : BitVec 12) (n : Nat), s.fault = none → s.started = true → s.pc = nnn.setWidth 16 →
    nnn.toNat % 2 = 0 → decodeWord (s.mem.read s.pc.toNat ++ s.mem.read (s.pc.toNat + 1)) = some (.jp nnn) →
    Sys2Proof.core.run n s = .next s ∧ SafeFor n s

/-- A store is seen by the very next fetch: `LD [I], V1` with `I` at the next instruction's address makes the next step run
the instruction of `V0` and `V1` (20_memory.md section 7). -/
def Obligations.StoreIsSeenByTheNextFetch : Prop :=
  ∀ (s : State) (i : Instr), s.fault = none → s.pc.toNat % 2 = 0 → s.pc.toNat ≤ 0xFFC → s.index = s.pc + 2 →
    decodeWord (s.mem.read s.pc.toNat ++ s.mem.read (s.pc.toNat + 1)) = some (.stRegs 1) →
    decodeWord (s.reg 0 ++ s.reg 1) = some i →
    ∃ t, step s = .next t ∧ t.fault = none ∧ t.pc = s.pc + 2 ∧ step t = exec i (t.setPc (s.pc + 4))

/-! ### Control flow -/

/-- R101: JP sets `pc` to NNN, zero-extended, and writes nothing else. -/
def Obligations.JpSetsPc : Prop :=
  ∀ (s : State) (pc0 : Word) (nnn : BitVec 12), ∃ t, exec (.jp nnn) (s.setPc (pc0 + 2)) = .next t ∧
    t.pc.toNat = nnn.toNat ∧ SameExcept [] [.pc] s t

/-- R103 to R106: the four skips go to `pc0 + 4` when their comparison holds, otherwise to `pc0 + 2`, and write nothing
else. -/
def Obligations.SkipsPassOverOneInstruction : Prop :=
  ∀ (s : State) (pc0 : Word) (x y : Reg) (nn : Byte),
    (∃ t, exec (.seVxNn x nn) (s.setPc (pc0 + 2)) = .next t ∧
      t.pc = (if s.reg x = nn then pc0 + 4 else pc0 + 2) ∧ SameExcept [] [.pc] s t) ∧
    (∃ t, exec (.sneVxNn x nn) (s.setPc (pc0 + 2)) = .next t ∧
      t.pc = (if s.reg x ≠ nn then pc0 + 4 else pc0 + 2) ∧ SameExcept [] [.pc] s t) ∧
    (∃ t, exec (.seVxVy x y) (s.setPc (pc0 + 2)) = .next t ∧
      t.pc = (if s.reg x = s.reg y then pc0 + 4 else pc0 + 2) ∧ SameExcept [] [.pc] s t) ∧
    (∃ t, exec (.sneVxVy x y) (s.setPc (pc0 + 2)) = .next t ∧
      t.pc = (if s.reg x ≠ s.reg y then pc0 + 4 else pc0 + 2) ∧ SameExcept [] [.pc] s t)

/-- CALL with room on the stack pushes `pc0 + 2` and jumps; every other entry and all else is as before (40_control_flow.md
section 2; the value pushed is D25, the place D20, log 17). -/
def Obligations.CallPushesTheNextAddress : Prop :=
  ∀ (s : State) (pc0 : Word) (nnn : BitVec 12) (h : s.sp.val < 64),
    ∃ t, exec (.call nnn) (s.setPc (pc0 + 2)) = .next t ∧
      t.pc = nnn.setWidth 16 ∧ t.sp.val = s.sp.val + 1 ∧ t.stack.get ⟨s.sp.val, h⟩ = pc0 + 2 ∧
      (∀ k, k.val ≠ s.sp.val → t.stack.get k = s.stack.get k) ∧ SameExcept [] [.pc, .sp, .stack] s t

/-- RET with an entry on the stack pops it into `pc`, leaves it in the array and writes nothing else (40_control_flow.md
section 2; D20, log 17). -/
def Obligations.RetPopsIntoPc : Prop :=
  ∀ (s : State) (pc0 : Word) (k : Fin 64), s.sp.val = k.val + 1 →
    ∃ t, exec .ret (s.setPc (pc0 + 2)) = .next t ∧
      t.pc = s.stack.get k ∧ t.sp.val = k.val ∧ SameExcept [] [.pc, .sp] s t

/-- R203, R204: CALL with `sp = 64` raises StackOverflow and RET with `sp = 0` raises StackUnderflow, whatever else the
state holds. -/
def Obligations.StackLimitsRaiseTheirFaults : Prop :=
  ∀ (s : State) (nnn : BitVec 12),
    (s.sp.val = 64 → ∃ t f, exec (.call nnn) s = .next t ∧ t.fault = some f ∧ f.kind = .stackOverflow) ∧
    (s.sp.val = 0 → ∃ t f, exec .ret s = .next t ∧ t.fault = some f ∧ f.kind = .stackUnderflow)

/-- CALL then RET, whatever the subroutine did to the registers and memory in between, returns to `pc0 + 2` with the stack
pointer as it was (40_control_flow.md section 2; D25). -/
def Obligations.ReturnComesBackAfterTheCall : Prop :=
  ∀ (s t u : State) (pc0 pc1 : Word) (nnn : BitVec 12), s.sp.val < 64 →
    exec (.call nnn) (s.setPc (pc0 + 2)) = .next t → u.stack = t.stack → u.sp = t.sp →
    ∃ r, exec .ret (u.setPc (pc1 + 2)) = .next r ∧ r.pc = pc0 + 2 ∧ r.sp = s.sp ∧ SameExcept [] [.pc, .sp] u r

/-- JP_OFF: the true sum of NNN and `V0`, or `V[X]` with X the top nibble of NNN, by the quirk; not reduced to 12 bits
(40_control_flow.md section 4, D21). -/
def Obligations.JpOffAddsTheSelectedRegister : Prop :=
  ∀ (s : State) (pc0 : Word) (nnn : BitVec 12), ∃ t, exec (.jpOff nnn) (s.setPc (pc0 + 2)) = .next t ∧
    (s.quirks.jumpUsesV0 = true → t.pc.toNat = nnn.toNat + (s.reg 0).toNat) ∧
    (s.quirks.jumpUsesV0 = false →
      ∀ x : Reg, x.val = nnn.toNat / 256 → t.pc.toNat = nnn.toNat + (s.reg x).toNat) ∧
    SameExcept [] [.pc] s t

/-! ### Immediate and register ALU -/

/-- R121, R123: the two register loads write `V[X]` and nothing else. -/
def Obligations.RegisterLoadsWriteOneRegister : Prop :=
  ∀ (s : State) (x y : Reg) (nn : Byte),
    (∃ t, exec (.ldVxNn x nn) s = .next t ∧ t.reg x = nn ∧ SameExcept [x] [] s t) ∧
    (∃ t, exec (.ldVxVy x y) s = .next t ∧ t.reg x = s.reg y ∧ SameExcept [x] [] s t)

/-- OR, AND, XOR, bit by bit, and VF forced to 0 after the operation exactly when the quirk is set
(41_immediate_and_alu.md section 3; for X = F the write order D7, log 10). -/
def Obligations.LogicOperationsAndTheirQuirk : Prop :=
  ∀ (s : State) (x y : Reg) (op : Bool → Bool → Bool) (i : Instr),
    (i = .or x y ∧ op = or) ∨ (i = .and x y ∧ op = and) ∨ (i = .xor x y ∧ op = xor) →
    ∃ t, exec i s = .next t ∧
      (x ≠ vf ∨ s.quirks.logicResetsVf = false →
        ∀ k < 8, (t.reg x).getLsbD k = op ((s.reg x).getLsbD k) ((s.reg y).getLsbD k)) ∧
      (s.quirks.logicResetsVf = true → t.reg vf = 0) ∧
      SameExcept (if s.quirks.logicResetsVf then [x, vf] else [x]) [] s t

/-- The two additions: the sum modulo 256; the register form sets VF to the carry last, the immediate form leaves VF (unless
it is the destination) (41_immediate_and_alu.md sections 2 and 3; for X = F the write order D7, log 10; that the immediate
form has no carry is the spec's own inference). -/
def Obligations.AdditionsWrapAndCarry : Prop :=
  ∀ (s : State) (x y : Reg) (nn : Byte),
    (∃ t, exec (.addVxVy x y) s = .next t ∧
      (x ≠ vf → (t.reg x).toNat = ((s.reg x).toNat + (s.reg y).toNat) % 256) ∧
      (t.reg vf).toNat = (if (s.reg x).toNat + (s.reg y).toNat > 255 then 1 else 0) ∧
      SameExcept [x, vf] [] s t) ∧
    (∃ t, exec (.addVxNn x nn) s = .next t ∧
      (t.reg x).toNat = ((s.reg x).toNat + nn.toNat) % 256 ∧ SameExcept [x] [] s t)

/-- The two subtractions: the true difference modulo 256, and VF set last to 1 exactly when it is not negative
(41_immediate_and_alu.md section 3; for X = F the write order D7, log 10). -/
def Obligations.SubtractionsWrapAndBorrow : Prop :=
  ∀ (s : State) (x y : Reg),
    (∃ t, exec (.sub x y) s = .next t ∧
      (x ≠ vf → ((t.reg x).toNat : Int) = (((s.reg x).toNat : Int) - (s.reg y).toNat) % 256) ∧
      (t.reg vf).toNat = (if (s.reg x).toNat ≥ (s.reg y).toNat then 1 else 0) ∧
      SameExcept [x, vf] [] s t) ∧
    (∃ t, exec (.subn x y) s = .next t ∧
      (x ≠ vf → ((t.reg x).toNat : Int) = (((s.reg y).toNat : Int) - (s.reg x).toNat) % 256) ∧
      (t.reg vf).toNat = (if (s.reg y).toNat ≥ (s.reg x).toNat then 1 else 0) ∧
      SameExcept [x, vf] [] s t)

/-- The two shifts by one, of `V[Y]` or `V[X]` by the quirk, VF set last to the bit shifted out (41_immediate_and_alu.md
section 3; for X = F the write order D7, log 10). -/
def Obligations.ShiftsMoveOneBitIntoVf : Prop :=
  ∀ (s : State) (x y : Reg) (v : Byte), v = (if s.quirks.shiftUsesVy then s.reg y else s.reg x) →
    (∃ t, exec (.shr x y) s = .next t ∧ (x ≠ vf → (t.reg x).toNat = v.toNat / 2) ∧
      (t.reg vf).toNat = v.toNat % 2 ∧ SameExcept [x, vf] [] s t) ∧
    (∃ t, exec (.shl x y) s = .next t ∧ (x ≠ vf → (t.reg x).toNat = v.toNat * 2 % 256) ∧
      (t.reg vf).toNat = v.toNat / 128 ∧ SameExcept [x, vf] [] s t)

/-! ### Index register and memory -/

/-- R141, R143: LD_I and LD_F write `I` and nothing else: NNN, or the address of the glyph of the low nibble. -/
def Obligations.IndexLoadsWriteOnlyI : Prop :=
  ∀ (s : State) (x : Reg) (nnn : BitVec 12),
    (∃ t, exec (.ldI nnn) s = .next t ∧ t.index.toNat = nnn.toNat ∧ SameExcept [] [.index] s t) ∧
    (∃ t, exec (.ldF x) s = .next t ∧ t.index.toNat = 0x0050 + 5 * ((s.reg x).toNat % 16) ∧
      SameExcept [] [.index] s t)

/-- ADD_I: `I` wraps at 16 bits; with the quirk VF says whether the true sum is above 0xFFF, without it VF is as before
(42_index_and_memory.md section 2; the flag's test and its 0 are D9, log 10). -/
def Obligations.AddIndexWrapsAndItsQuirk : Prop :=
  ∀ (s : State) (x : Reg), ∃ t, exec (.addI x) s = .next t ∧
    t.index.toNat = (s.index.toNat + (s.reg x).toNat) % 65536 ∧
    (s.quirks.addiSetsVf = true →
      (t.reg vf).toNat = (if s.index.toNat + (s.reg x).toNat > 0xFFF then 1 else 0)) ∧
    SameExcept (if s.quirks.addiSetsVf then [vf] else []) [.index] s t

/-- LD_B in range stores the three decimal digits at the addresses it computes, each a number 0 to 9 in its own byte, and
changes no other byte, nor `I` (42_index_and_memory.md section 3; the range check is D5). -/
def Obligations.BcdStoresThreeDigits : Prop :=
  ∀ (s : State) (x : Reg), s.dataAddr 2 ≤ 0xFFF → ∃ t, exec (.ldB x) s = .next t ∧
    (t.mem.read (s.dataAddr 0)).toNat = (s.reg x).toNat / 100 ∧
    (t.mem.read (s.dataAddr 1)).toNat = (s.reg x).toNat / 10 % 10 ∧
    (t.mem.read (s.dataAddr 2)).toNat = (s.reg x).toNat % 10 ∧
    (∀ a, a < s.dataAddr 0 ∨ s.dataAddr 2 < a → t.mem.read a = s.mem.read a) ∧
    SameExcept [] [.mem] s t

/-- ST_REGS in range stores `V0` to `VX` from the address it computes, ascending, and changes no other byte; `I` advances by
X + 1 exactly when the quirk is set (42_index_and_memory.md section 3; the range check is D5). -/
def Obligations.BlockStoreWritesVZeroToVX : Prop :=
  ∀ (s : State) (x : Reg), s.dataAddr x.val ≤ 0xFFF → ∃ t, exec (.stRegs x) s = .next t ∧
    (∀ r, r ≤ x → t.mem.read (s.dataAddr r.val) = s.reg r) ∧
    (∀ a, a < s.dataAddr 0 ∨ s.dataAddr x.val < a → t.mem.read a = s.mem.read a) ∧
    t.index.toNat = (if s.quirks.memAdvancesI then s.index.toNat + x.val + 1 else s.index.toNat) ∧
    SameExcept [] [.mem, .index] s t

/-- LD_REGS in range loads `V0` to `VX`; the registers above and all of memory are as before; `I` advances by X + 1 exactly
when the quirk is set (42_index_and_memory.md section 3; the range check is D5). -/
def Obligations.BlockLoadReadsVZeroToVX : Prop :=
  ∀ (s : State) (x : Reg), s.dataAddr x.val ≤ 0xFFF → ∃ t, exec (.ldRegs x) s = .next t ∧
    (∀ r, r ≤ x → t.reg r = s.mem.read (s.dataAddr r.val)) ∧
    (∀ r, x < r → t.reg r = s.reg r) ∧
    t.index.toNat = (if s.quirks.memAdvancesI then s.index.toNat + x.val + 1 else s.index.toNat) ∧
    ∀ p : Piece, p ≠ .index → p.same s t

/-- A block store and then a block load of the same range, from any state with that memory, gives the registers back
(42_index_and_memory.md section 3). -/
def Obligations.BlockStoreThenLoadRoundTrips : Prop :=
  ∀ (s t u : State) (x : Reg), s.dataAddr x.val ≤ 0xFFF → exec (.stRegs x) s = .next t → u.mem = t.mem →
    u.index = s.index → ∃ r, exec (.ldRegs x) u = .next r ∧ (∀ k, k ≤ x → r.reg k = s.reg k)

/-- The four memory instructions whose highest address is above 0xFFF raise MemoryOutOfRange from `pc0`, with their own word
in the record and nothing else changed (20_memory.md section 5, 60_exceptions.md sections 1 and 2; D5, D3, log 9). -/
def Obligations.AccessAboveMemoryFaults : Prop :=
  ∀ (s : State) (pc0 : Word) (x y : Reg) (n : BitVec 4) (i : Instr),
    (i = .ldB x ∧ s.index.toNat + 2 > 0xFFF) ∨ (i = .stRegs x ∧ s.index.toNat + x.val > 0xFFF) ∨
    (i = .ldRegs x ∧ s.index.toNat + x.val > 0xFFF) ∨
    (i = .drw x y n.toNat ∧ n ≠ 0 ∧
      s.index.toNat + min n.toNat (32 - (s.reg y).toNat % 32) - 1 > 0xFFF) →
    exec i (s.setPc (pc0 + 2)) =
      .next ((s.setPc pc0).setFault (some ⟨.memoryOutOfRange, pc0, encode i⟩))

/-! ### Display -/

/-- CLS turns every pixel off and writes nothing else, the draw mark included (43_display.md; the mark is D13, log 17). -/
def Obligations.ClearTurnsEveryPixelOff : Prop :=
  ∀ s : State, ∃ t, exec .cls s = .next t ∧ (∀ y x, t.pixel y x = false) ∧ SameExcept [] [.disp] s t

/-- DRW in range: each pixel is inverted exactly where a 1 bit of the clipped sprite falls on it, VF is 1 exactly when such a
pixel was on and otherwise 0, the mark is set, and nothing else is written (43_display.md; operands before the reset of VF
D8, clipped rows not read D27, the range check D5; log 10). -/
def Obligations.DrawInvertsTheCoveredPixels : Prop :=
  ∀ (s : State) (x y : Reg) (n : BitVec 4) (rows : Nat),
    rows = min n.toNat (32 - (s.reg y).toNat % 32) → rows = 0 ∨ s.dataAddr (rows - 1) ≤ 0xFFF →
    ∃ t, exec (.drw x y n.toNat) s = .next t ∧
      (∀ py px, t.pixel py px = ((s.pixel py px) ^^ s.spriteOn x y rows py px)) ∧
      (t.reg vf = 1 ∧ (∃ py px, s.spriteOn x y rows py px = true ∧ s.pixel py px = true) ∨
        t.reg vf = 0 ∧ ¬∃ py px, s.spriteOn x y rows py px = true ∧ s.pixel py px = true) ∧
      t.drawn = true ∧ SameExcept [vf] [.disp, .drawn] s t

/-- The same draw twice, the coordinates not in VF, restores the display; and on a display where no covered pixel was on,
the second draw collides exactly when the clipped sprite has a 1 bit (43_display.md, the spec's own reading C10). -/
def Obligations.DrawingTwiceRestoresTheDisplay : Prop :=
  ∀ (s t u : State) (x y : Reg) (n : Nat), x ≠ vf → y ≠ vf → s.fault = none → t.fault = none →
    exec (.drw x y n) s = .next t → exec (.drw x y n) t = .next u →
    u.disp = s.disp ∧
    ((∀ py px, s.spriteOn x y n py px = true → s.pixel py px = false) → t.reg vf = 0 ∧
      (u.reg vf = 1 ↔ ∃ py px, s.spriteOn x y n py px = true))

/-! ### Keys, timers, random -/

/-- SKP and SKNP on a register 0 to 15 skip by that key's flag and write nothing else; on a register above 15 they raise
KeyIndexOutOfRange from `pc0` with their own word (44_keys_timers_random.md section 1; the fault is D6, log 9). -/
def Obligations.KeySkipsTestOneKey : Prop :=
  ∀ (s : State) (pc0 : Word) (x : Reg),
    (∀ k : Fin 16, (s.reg x).toNat = k.val →
      (∃ t, exec (.skp x) (s.setPc (pc0 + 2)) = .next t ∧
        t.pc = (if s.keyDown k then pc0 + 4 else pc0 + 2) ∧ SameExcept [] [.pc] s t) ∧
      (∃ t, exec (.sknp x) (s.setPc (pc0 + 2)) = .next t ∧
        t.pc = (if s.keyDown k then pc0 + 2 else pc0 + 4) ∧ SameExcept [] [.pc] s t)) ∧
    (15 < (s.reg x).toNat → ∀ i, i = .skp x ∨ i = .sknp x →
      exec i (s.setPc (pc0 + 2)) =
        .next ((s.setPc pc0).setFault (some ⟨.keyIndexOutOfRange, pc0, encode i⟩)))

/-- LD_VX_K on this hardware: it stalls until a key is down and takes the lowest, stalls while that key stays down, and
completes with its number when it is up (44_keys_timers_random.md section 2; the parameter, the lowest key and the stored
value are D11, log 7). -/
def Obligations.KeyWaitTakesPressThenRelease : Prop :=
  ∀ (s : State) (pc0 : Word) (x : Reg),
    (s.waitKey = none → (∀ k, s.keyDown k = false) →
      exec (.ldVxK x) (s.setPc (pc0 + 2)) = .next (s.setPc pc0)) ∧
    (∀ k, s.waitKey = none → s.keyDown k = true → (∀ j, j < k → s.keyDown j = false) →
      exec (.ldVxK x) (s.setPc (pc0 + 2)) = .next ((s.setPc pc0).setWaitKey (some k))) ∧
    (∀ k, s.waitKey = some k → s.keyDown k = true →
      exec (.ldVxK x) (s.setPc (pc0 + 2)) = .next (s.setPc pc0)) ∧
    (∀ k, s.waitKey = some k → s.keyDown k = false →
      ∃ t, exec (.ldVxK x) (s.setPc (pc0 + 2)) = .next t ∧ (t.reg x).toNat = k.val ∧ t.waitKey = none ∧
        t.pc = pc0 + 2 ∧ SameExcept [x] [.pc, .waitKey] s t)

/-- The other value of the parameter: with KEYWAIT_RELEASE false the wait completes at the step that sees a key down, with
the lowest, and never writes `wait_key` (44_keys_timers_random.md section 2; D11, log 7). -/
def Obligations.KeyWaitOnPressAlone : Prop :=
  ∀ (s : State) (pc0 : Word) (x : Reg),
    ((∀ k, s.keyDown k = false) → keyWait false x (s.setPc (pc0 + 2)) = s.setPc pc0) ∧
    (∀ k, s.keyDown k = true → (∀ j, j < k → s.keyDown j = false) →
      (keyWait false x (s.setPc (pc0 + 2))).reg x = BitVec.ofNat 8 k.val ∧
      SameExcept [x] [.pc] s (keyWait false x (s.setPc (pc0 + 2))) ∧
      (keyWait false x (s.setPc (pc0 + 2))).pc = pc0 + 2)

/-- A key pressed and released around a waiting LD_VX_K completes it: step, release by the host, step, whatever ticks come
between (44_keys_timers_random.md section 2, 70_reset_and_hazards.md section 5; D11, log 7). -/
def Obligations.PressAndReleaseCompletesTheWait : Prop :=
  ∀ (s : State) (x : Reg) (k : Fin 16) (up : Vector Bool 16) (n : Nat) (a b : Byte), s.fault = none →
    s.waitKey = none → s.pc.toNat % 2 = 0 → s.pc.toNat ≤ 0xFFE →
    decodeWord (s.mem.read s.pc.toNat ++ s.mem.read (s.pc.toNat + 1)) = some (.ldVxK x) →
    s.keyDown k = true → (∀ j, j < k → s.keyDown j = false) → up.get k = false →
    ∃ t, performAll ([.step a] ++ List.replicate n .tick ++ [.setKeys up, .step b]) s = .next t ∧
      (t.reg x).toNat = k.val ∧ t.waitKey = none ∧ t.fault = none ∧ t.pc = s.pc + 2

/-- R173 to R175: the three timer instructions move a byte between `V[X]` and a timer and write nothing else. -/
def Obligations.TimerInstructionsMoveOneByte : Prop :=
  ∀ (s : State) (x : Reg),
    (∃ t, exec (.ldVxDt x) s = .next t ∧ t.reg x = s.dt ∧ SameExcept [x] [] s t) ∧
    (∃ t, exec (.ldDtVx x) s = .next t ∧ t.dt = s.reg x ∧ SameExcept [] [.dt] s t) ∧
    (∃ t, exec (.ldStVx x) s = .next t ∧ t.st = s.reg x ∧ SameExcept [] [.st] s t)

/-- RND puts the step's random byte, whatever it is, ANDed with NN, in `V[X]`; the byte is the one the environment named, or
some free one (44_keys_timers_random.md section 4, D14; how the byte stands in the state is the model's choice, log 3). -/
def Obligations.RndMasksTheRandomByte : Prop :=
  ∀ (s : State) (x : Reg) (nn rnd : Byte),
    (∃ t, exec (.rnd x nn) (s.setRnd (some rnd) s.rndCount) = .next t ∧ t.reg x = rnd &&& nn ∧
      SameExcept [x] [.rnd] s t) ∧
    (∃ t b, exec (.rnd x nn) s = .next t ∧ t.reg x = b &&& nn ∧ SameExcept [x] [.rnd] s t)
end

