-- ==== Sys2Proof/Laws/Decode.lean ====
section
/-! SUPPORT. The fields of an encoded word are its operands, and a word is rebuilt from its fields (spec/30_encoding.md R72,
R73). These are the only facts about bit positions that later proofs need. -/

namespace Sys2Proof

theorem regField_toFin (r : Reg) : (regField r).toFin = r := rfl

theorem regField_xOf (w : Word) : regField (xOf w) = w.extractLsb' 8 4 := rfl

theorem regField_yOf (w : Word) : regField (yOf w) = w.extractLsb' 4 4 := rfl

/-! ### Fields of each format -/

@[simp] theorem opOf_encodeA (op : BitVec 4) (nnn : BitVec 12) : opOf (encodeA op nnn) = op :=
  BitVec.extractLsb'_append_eq_left

@[simp] theorem nnnOf_encodeA (op : BitVec 4) (nnn : BitVec 12) : nnnOf (encodeA op nnn) = nnn :=
  BitVec.extractLsb'_append_eq_right

@[simp] theorem nnOf_encodeXI (op : BitVec 4) (x : Reg) (nn : Byte) : nnOf (encodeXI op x nn) = nn :=
  BitVec.extractLsb'_append_eq_right

@[simp] theorem opOf_encodeXI (op : BitVec 4) (x : Reg) (nn : Byte) : opOf (encodeXI op x nn) = op :=
  (BitVec.extractLsb'_append_eq_of_le (xhi := op ++ regField x) (by decide)).trans BitVec.extractLsb'_append_eq_left

@[simp] theorem nOf_encodeXY (op : BitVec 4) (x y : Reg) (n : BitVec 4) : nOf (encodeXY op x y n) = n :=
  BitVec.extractLsb'_append_eq_right

@[simp] theorem opOf_encodeXY (op : BitVec 4) (x y : Reg) (n : BitVec 4) : opOf (encodeXY op x y n) = op :=
  (BitVec.extractLsb'_append_eq_of_le (xhi := op ++ regField x ++ regField y) (by decide)).trans
    ((BitVec.extractLsb'_append_eq_of_le (xhi := op ++ regField x) (by decide)).trans
      BitVec.extractLsb'_append_eq_left)

@[simp] theorem encodeXF_eq (op : BitVec 4) (x : Reg) (fn : Byte) : encodeXF op x fn = encodeXI op x fn := rfl

theorem xField_encodeXI (op : BitVec 4) (x : Reg) (nn : Byte) : (encodeXI op x nn).extractLsb' 8 4 = regField x :=
  (BitVec.extractLsb'_append_eq_of_le (xhi := op ++ regField x) (by decide)).trans BitVec.extractLsb'_append_eq_right

theorem xField_encodeXY (op : BitVec 4) (x y : Reg) (n : BitVec 4) :
    (encodeXY op x y n).extractLsb' 8 4 = regField x :=
  (BitVec.extractLsb'_append_eq_of_le (xhi := op ++ regField x ++ regField y) (by decide)).trans
    ((BitVec.extractLsb'_append_eq_of_le (xhi := op ++ regField x) (by decide)).trans
      BitVec.extractLsb'_append_eq_right)

theorem yField_encodeXY (op : BitVec 4) (x y : Reg) (n : BitVec 4) :
    (encodeXY op x y n).extractLsb' 4 4 = regField y :=
  (BitVec.extractLsb'_append_eq_of_le (xhi := op ++ regField x ++ regField y) (by decide)).trans
    BitVec.extractLsb'_append_eq_right

@[simp] theorem xOf_encodeXI (op : BitVec 4) (x : Reg) (nn : Byte) : xOf (encodeXI op x nn) = x := by
  rw [xOf, xField_encodeXI]; rfl

@[simp] theorem xOf_encodeXY (op : BitVec 4) (x y : Reg) (n : BitVec 4) : xOf (encodeXY op x y n) = x := by
  rw [xOf, xField_encodeXY]; rfl

@[simp] theorem yOf_encodeXY (op : BitVec 4) (x y : Reg) (n : BitVec 4) : yOf (encodeXY op x y n) = y := by
  rw [yOf, yField_encodeXY]; rfl

/-! ### A word from its fields -/

theorem encodeA_fields (w : Word) : encodeA (opOf w) (nnnOf w) = w := by
  simp only [encodeA, opOf, nnnOf]; ext j hj
  simp only [BitVec.getElem_append, BitVec.getElem_extractLsb']
  split
  · rw [← BitVec.getLsbD_eq_getElem]; congr 1; omega
  · rw [← BitVec.getLsbD_eq_getElem]; congr 1; omega

theorem encodeXI_fields (w : Word) : encodeXI (opOf w) (xOf w) (nnOf w) = w := by
  simp only [encodeXI, opOf, regField_xOf, nnOf]; ext j hj
  simp only [BitVec.getElem_append, BitVec.getElem_extractLsb']
  split
  · rw [← BitVec.getLsbD_eq_getElem]; congr 1; omega
  · split
    · rw [← BitVec.getLsbD_eq_getElem]; congr 1; omega
    · rw [← BitVec.getLsbD_eq_getElem]; congr 1; omega

theorem encodeXY_fields (w : Word) : encodeXY (opOf w) (xOf w) (yOf w) (nOf w) = w := by
  simp only [encodeXY, opOf, regField_xOf, regField_yOf, nOf]; ext j hj
  simp only [BitVec.getElem_append, BitVec.getElem_extractLsb']
  split
  · rw [← BitVec.getLsbD_eq_getElem]; congr 1; omega
  · split
    · rw [← BitVec.getLsbD_eq_getElem]; congr 1; omega
    · split
      · rw [← BitVec.getLsbD_eq_getElem]; congr 1; omega
      · rw [← BitVec.getLsbD_eq_getElem]; congr 1; omega

/-- The high nibble of NNN is the field X (R72, R108). -/
theorem nnnOf_high (w : Word) : ((nnnOf w).extractLsb' 8 4).toFin = xOf w := by
  have h : (nnnOf w).extractLsb' 8 4 = w.extractLsb' 8 4 := by
    simp only [nnnOf]; ext j hj; simp
  rw [h]; rfl

/-! ### The two bytes of a word (R52) -/

@[simp] theorem wordOfBytes_hiByte_loByte (w : Word) : wordOfBytes (hiByte w) (loByte w) = w := by
  simp only [wordOfBytes, hiByte, loByte]; ext j hj
  simp only [BitVec.getElem_append, BitVec.getElem_extractLsb']
  split
  · rw [← BitVec.getLsbD_eq_getElem]; congr 1; omega
  · rw [← BitVec.getLsbD_eq_getElem]; congr 1; omega

@[simp] theorem hiByte_wordOfBytes (hi lo : Byte) : hiByte (wordOfBytes hi lo) = hi :=
  BitVec.extractLsb'_append_eq_left

@[simp] theorem loByte_wordOfBytes (hi lo : Byte) : loByte (wordOfBytes hi lo) = lo :=
  BitVec.extractLsb'_append_eq_right

/-- Decoding bytes is decoding their word (R52, R71). -/
theorem decodeBytes_of_word {hi lo : Byte} {i : Instr} (rest : List Byte)
    (h : decodeWord (wordOfBytes hi lo) = some i) : decodeBytes (hi :: lo :: rest) = .ok (i, rest) := by
  simp [decodeBytes, h]

/-! ### A word under the masks of R75, by fields (R74) -/

theorem encodeA_and_F000 (op : BitVec 4) (nnn : BitVec 12) : encodeA op nnn &&& 0xF000 = encodeA op 0 := by
  have h := @BitVec.and_append 4 12 op 0xF#4 nnn 0x000#12
  refine h.trans ?_
  rw [show (0xF#4 : BitVec 4) = BitVec.allOnes 4 from rfl, BitVec.and_allOnes, BitVec.and_zero]; rfl

theorem encodeXI_and_F000 (op : BitVec 4) (x : Reg) (nn : Byte) : encodeXI op x nn &&& 0xF000 = encodeA op 0 := by
  rw [← encodeA_fields (encodeXI op x nn), encodeA_and_F000, opOf_encodeXI]

theorem encodeXY_and_F000 (op : BitVec 4) (x y : Reg) (n : BitVec 4) :
    encodeXY op x y n &&& 0xF000 = encodeA op 0 := by
  rw [← encodeA_fields (encodeXY op x y n), encodeA_and_F000, opOf_encodeXY]

theorem encodeXI_and_F0FF (op : BitVec 4) (x : Reg) (nn : Byte) :
    encodeXI op x nn &&& 0xF0FF = encodeXI op 0 nn := by
  have h := @BitVec.and_append 8 8 (op ++ regField x) (0xF#4 ++ 0x0#4) nn 0xFF#8
  refine h.trans ?_
  rw [BitVec.and_append, show (0xF#4 : BitVec 4) = BitVec.allOnes 4 from rfl,
    show (0xFF#8 : BitVec 8) = BitVec.allOnes 8 from rfl, BitVec.and_allOnes, BitVec.and_allOnes, BitVec.and_zero]; rfl

theorem encodeXY_and_F00F (op : BitVec 4) (x y : Reg) (n : BitVec 4) :
    encodeXY op x y n &&& 0xF00F = encodeXY op 0 0 n := by
  have h := @BitVec.and_append 12 4 (op ++ regField x ++ regField y) (0xF#4 ++ 0x0#4 ++ 0x0#4) n 0xF#4
  refine h.trans ?_
  rw [BitVec.and_append, BitVec.and_append, show (0xF#4 : BitVec 4) = BitVec.allOnes 4 from rfl,
    BitVec.and_allOnes, BitVec.and_allOnes, BitVec.and_zero, BitVec.and_zero]; rfl

end Sys2Proof
end

