-- ==== Sys2Proof/Laws/Memory.lean ====
section
/-! SUPPORT. The laws of memory (spec/20_memory.md R59, R61): a read after a write, and that every operation keeps the
canonical form. -/

namespace Sys2Proof.Machine

theorem Memory.read_filter_other (m : Memory) {a b : Nat} (h : b ≠ a) :
    Memory.read (m.filter fun c => decide (c.1 ≠ a)) b = Memory.read m b := by
  induction m with
  | nil => rfl
  | cons c rest ih =>
    by_cases hc : c.1 = a
    · simp [List.filter, hc, Memory.read, Ne.symm h]; simpa using ih
    · simp only [List.filter, ne_eq, hc, not_false_eq_true, decide_true, Memory.read]
      split
      · rfl
      · simpa using ih

theorem Memory.read_of_not_listed (m : Memory) (a : Nat) (h : ∀ c ∈ m, c.1 ≠ a) : m.read a = Memory.unlisted a := by
  induction m with
  | nil => rfl
  | cons c rest ih =>
    simp only [Memory.read, h c (by simp), if_false]
    exact ih fun d hd => h d (by simp [hd])

theorem Memory.read_insert (m : Memory) (a b : Nat) (v : Byte) (h : ∀ c ∈ m, c.1 ≠ a) :
    Memory.read (Memory.insert (a, v) m) b = if b = a then v else m.read b := by
  induction m with
  | nil => simp [Memory.insert, Memory.read, eq_comm]
  | cons c rest ih =>
    have hc : c.1 ≠ a := h c (by simp)
    have hr := ih fun d hd => h d (by simp [hd])
    unfold Memory.insert
    split
    · simp [Memory.read, eq_comm]
    · simp only [Memory.read, hr]
      by_cases hb : b = a
      · subst hb; simp [hc]
      · simp [hb]

/-- A write changes that byte and nothing else, and a read returns the byte last written (R59, R61). -/
theorem Memory.read_write (m : Memory) (a b : Nat) (v : Byte) :
    (m.write a v).read b = if b = a then v else m.read b := by
  have hno : ∀ c ∈ m.filter (fun c => decide (c.1 ≠ a)), c.1 ≠ a := by simp [List.mem_filter]
  unfold Memory.write
  dsimp only
  by_cases hb : b = a
  · subst hb
    split
    · rename_i hv; rw [Memory.read_of_not_listed _ _ hno]; simp [hv]
    · rw [Memory.read_insert _ _ _ _ hno]; simp
  · split
    · simp only [Memory.read_filter_other _ hb]
    · simp only [Memory.read_insert _ _ _ _ hno, Memory.read_filter_other _ hb, hb, if_false]

/-- Bytes written in ascending order (R52) are read back from their addresses; every other address is as before. -/
theorem Memory.read_writeBytes (bytes : List Byte) (m : Memory) (a b : Nat) :
    (m.writeBytes a bytes).read b =
      if h : a ≤ b ∧ b < a + bytes.length then bytes[b - a]'(by omega) else m.read b := by
  induction bytes generalizing m a with
  | nil => simp [Memory.writeBytes]
  | cons v rest ih =>
    simp only [Memory.writeBytes, ih, Memory.read_write, List.length_cons]
    by_cases h1 : b = a
    · subst h1; simp
    · by_cases h2 : a + 1 ≤ b ∧ b < a + 1 + rest.length
      · have h3 : b - a = (b - (a + 1)) + 1 := by omega
        have h4 : a ≤ b ∧ b < a + (rest.length + 1) := by omega
        simp only [h2, h4, and_self, dif_pos]
        simp [h3]
      · have h4 : ¬(a ≤ b ∧ b < a + (rest.length + 1)) := by omega
        rw [dif_neg h2, dif_neg h4, if_neg h1]

/-- The same in the form a caller with no byte to name cites: outside the block nothing changes. -/
theorem Memory.read_writeBytes_outside (bytes : List Byte) (m : Memory) (a b : Nat)
    (h : ¬(a ≤ b ∧ b < a + bytes.length)) : (m.writeBytes a bytes).read b = m.read b := by
  rw [Memory.read_writeBytes, dif_neg h]

/-! ### The canonical form -/

theorem Memory.risingFrom_le {m : Memory} {low high : Nat} (h : m.risingFrom high = true) (hl : low ≤ high) :
    m.risingFrom low = true := by
  cases m with
  | nil => rfl
  | cons c rest =>
    simp only [Memory.risingFrom, Bool.and_eq_true, decide_eq_true_eq] at h ⊢
    exact ⟨by omega, h.2⟩

theorem Memory.risingFrom_filter {m : Memory} {low : Nat} (p : Host.Cell → Bool) (h : m.risingFrom low = true) :
    Memory.risingFrom low (m.filter p) = true := by
  induction m generalizing low with
  | nil => rfl
  | cons c rest ih =>
    simp only [Memory.risingFrom, Bool.and_eq_true, decide_eq_true_eq] at h
    simp only [List.filter]
    split
    · simp only [Memory.risingFrom, Bool.and_eq_true, decide_eq_true_eq]; exact ⟨h.1, ih h.2⟩
    · exact Memory.risingFrom_le (ih h.2) (by omega)

theorem Memory.risingFrom_insert {m : Memory} {low a : Nat} (v : Byte) (h : m.risingFrom low = true) (ha : low ≤ a)
    (hno : ∀ c ∈ m, c.1 ≠ a) : Memory.risingFrom low (Memory.insert (a, v) m) = true := by
  induction m generalizing low with
  | nil => simpa [Memory.insert, Memory.risingFrom] using ha
  | cons c rest ih =>
    have hc : c.1 ≠ a := hno c (by simp)
    simp only [Memory.risingFrom, Bool.and_eq_true, decide_eq_true_eq] at h
    unfold Memory.insert
    split
    · rename_i hlt
      simp only [Memory.risingFrom, Bool.and_eq_true, decide_eq_true_eq]
      exact ⟨ha, by simpa using hlt, h.2⟩
    · rename_i hge
      simp only [Memory.risingFrom, Bool.and_eq_true, decide_eq_true_eq]
      exact ⟨h.1, ih h.2 (by simp only at hge; omega) fun d hd => hno d (by simp [hd])⟩

theorem Memory.mem_insert (c d : Host.Cell) (m : Memory) : d ∈ Memory.insert c m ↔ d = c ∨ d ∈ m := by
  induction m with
  | nil => simp [Memory.insert]
  | cons e rest ih =>
    unfold Memory.insert
    split
    · simp
    · simp only [List.mem_cons, ih]; tauto

/-- A write inside the 4096 bytes keeps the canonical form. -/
theorem Memory.wf_write {m : Memory} {a : Nat} (v : Byte) (h : m.wf = true) (ha : a < Config.memSize) :
    (m.write a v).wf = true := by
  simp only [Memory.wf, Bool.and_eq_true, List.all_eq_true, decide_eq_true_eq] at h ⊢
  have hno : ∀ c ∈ m.filter (fun c => decide (c.1 ≠ a)), c.1 ≠ a := by simp [List.mem_filter]
  unfold Memory.write
  dsimp only
  split
  · exact ⟨Memory.risingFrom_filter _ h.1, fun c hc => h.2 c (List.mem_of_mem_filter hc)⟩
  · rename_i hv
    refine ⟨Memory.risingFrom_insert v (Memory.risingFrom_filter _ h.1) (Nat.zero_le a) hno, fun c hc => ?_⟩
    rcases (Memory.mem_insert (a, v) c _).1 hc with rfl | hc
    · exact ⟨ha, hv⟩
    · exact h.2 c (List.mem_of_mem_filter hc)

/-- A block write inside the 4096 bytes keeps the canonical form. -/
theorem Memory.wf_writeBytes (bytes : List Byte) {m : Memory} {a : Nat} (h : m.wf = true)
    (ha : a + bytes.length ≤ Config.memSize) : (m.writeBytes a bytes).wf = true := by
  induction bytes generalizing m a with
  | nil => exact h
  | cons v rest ih =>
    simp only [List.length_cons] at ha
    exact ih (Memory.wf_write v h (by omega)) (by omega)

/-- The reset memory lists nothing and is in canonical form. -/
theorem Memory.wf_nil : Memory.wf [] = true := rfl

/-! ### Equal memories are equal data -/

theorem Memory.listed_read {m : Memory} {low : Nat} (h : m.risingFrom low = true) {c : Host.Cell} (hc : c ∈ m) :
    m.read c.1 = c.2 ∧ low ≤ c.1 := by
  induction m generalizing low with
  | nil => simp at hc
  | cons d rest ih =>
    simp only [Memory.risingFrom, Bool.and_eq_true, decide_eq_true_eq] at h
    rcases List.mem_cons.1 hc with rfl | hc
    · simp [Memory.read, h.1]
    · obtain ⟨h1, h2⟩ := ih h.2 hc
      have hne : d.1 ≠ c.1 := by omega
      simp only [Memory.read, hne, if_false]
      exact ⟨h1, by omega⟩

theorem Memory.not_listed_below {m : Memory} {low a : Nat} (h : m.risingFrom low = true) (ha : a < low) :
    ∀ c ∈ m, c.1 ≠ a :=
  fun _ hc => by have := (Memory.listed_read h hc).2; omega

theorem Memory.ext_of_rising {m n : Memory} {low : Nat} (hm : m.risingFrom low = true) (hn : n.risingFrom low = true)
    (hmv : ∀ c ∈ m, c.2 ≠ Memory.unlisted c.1) (hnv : ∀ c ∈ n, c.2 ≠ Memory.unlisted c.1)
    (h : ∀ a, m.read a = n.read a) : m = n := by
  induction m generalizing n low with
  | nil =>
    cases n with
    | nil => rfl
    | cons d rest => exact absurd (by simpa [Memory.read] using (h d.1).symm) (hnv d (by simp))
  | cons c mrest ih =>
    cases n with
    | nil => exact absurd (by simpa [Memory.read] using h c.1) (hmv c (by simp))
    | cons d nrest =>
      simp only [Memory.risingFrom, Bool.and_eq_true, decide_eq_true_eq] at hm hn
      have key : c.1 = d.1 := by
        rcases Nat.lt_trichotomy c.1 d.1 with hlt | heq | hgt
        · have h1 := h c.1
          rw [Memory.read_of_not_listed (d :: nrest) c.1 (by
            intro e he; rcases List.mem_cons.1 he with rfl | he
            · omega
            · exact Memory.not_listed_below hn.2 (by omega) e he)] at h1
          exact absurd (by simpa [Memory.read] using h1) (hmv c (by simp))
        · exact heq
        · have h1 := h d.1
          rw [Memory.read_of_not_listed (c :: mrest) d.1 (by
            intro e he; rcases List.mem_cons.1 he with rfl | he
            · omega
            · exact Memory.not_listed_below hm.2 (by omega) e he)] at h1
          exact absurd (by simpa [Memory.read] using h1.symm) (hnv d (by simp))
      have hv : c.2 = d.2 := by simpa [Memory.read, key] using h c.1
      have hrest : mrest = nrest := by
        refine ih hm.2 (by rw [key]; exact hn.2) (fun e he => hmv e (by simp [he])) (fun e he => hnv e (by simp [he]))
          fun a => ?_
        by_cases ha : a = c.1
        · subst ha
          rw [Memory.read_of_not_listed mrest _ (Memory.not_listed_below hm.2 (by omega)),
            Memory.read_of_not_listed nrest _ (Memory.not_listed_below hn.2 (by omega))]
        · simpa [Memory.read, Ne.symm ha, ← key] using h a
      rw [hrest, Prod.ext key hv]

/-- Two memories in canonical form that read alike are the same list. -/
theorem Memory.ext_of_wf {m n : Memory} (hm : m.wf = true) (hn : n.wf = true) (h : ∀ a, m.read a = n.read a) :
    m = n := by
  simp only [Memory.wf, Bool.and_eq_true, List.all_eq_true, decide_eq_true_eq] at hm hn
  exact Memory.ext_of_rising hm.1 hn.1 (fun c hc => (hm.2 c hc).2) (fun c hc => (hn.2 c hc).2) h

end Sys2Proof.Machine
end

