-- ==== Sys2Proof/Laws/State.lean ====
section
/-! SUPPORT. One lemma per field per update of State, and what the registers read after each update. -/

namespace Sys2Proof.Machine

variable (s : State)

/-! ### setReg -/

@[simp] theorem State.setReg_v (r : Reg) (b : Byte) : (s.setReg r b).v = s.v.set r.val b r.isLt := rfl
@[simp] theorem State.setReg_index (r : Reg) (b : Byte) : (s.setReg r b).index = s.index := rfl
@[simp] theorem State.setReg_pc (r : Reg) (b : Byte) : (s.setReg r b).pc = s.pc := rfl
@[simp] theorem State.setReg_stack (r : Reg) (b : Byte) : (s.setReg r b).stack = s.stack := rfl
@[simp] theorem State.setReg_sp (r : Reg) (b : Byte) : (s.setReg r b).sp = s.sp := rfl
@[simp] theorem State.setReg_dt (r : Reg) (b : Byte) : (s.setReg r b).dt = s.dt := rfl
@[simp] theorem State.setReg_st (r : Reg) (b : Byte) : (s.setReg r b).st = s.st := rfl
@[simp] theorem State.setReg_keys (r : Reg) (b : Byte) : (s.setReg r b).keys = s.keys := rfl
@[simp] theorem State.setReg_disp (r : Reg) (b : Byte) : (s.setReg r b).disp = s.disp := rfl
@[simp] theorem State.setReg_quirks (r : Reg) (b : Byte) : (s.setReg r b).quirks = s.quirks := rfl
@[simp] theorem State.setReg_waitKey (r : Reg) (b : Byte) : (s.setReg r b).waitKey = s.waitKey := rfl
@[simp] theorem State.setReg_drawn (r : Reg) (b : Byte) : (s.setReg r b).drawn = s.drawn := rfl
@[simp] theorem State.setReg_fault (r : Reg) (b : Byte) : (s.setReg r b).fault = s.fault := rfl
@[simp] theorem State.setReg_started (r : Reg) (b : Byte) : (s.setReg r b).started = s.started := rfl
@[simp] theorem State.setReg_mem (r : Reg) (b : Byte) : (s.setReg r b).mem = s.mem := rfl
@[simp] theorem State.setReg_rndArg (r : Reg) (b : Byte) : (s.setReg r b).rndArg = s.rndArg := rfl
@[simp] theorem State.setReg_rndCount (r : Reg) (b : Byte) : (s.setReg r b).rndCount = s.rndCount := rfl

/-! ### setFlag -/

@[simp] theorem State.setFlag_v (f : Bool) : (s.setFlag f).v = (s.setReg vf (flagByte f)).v := rfl
@[simp] theorem State.setFlag_index (f : Bool) : (s.setFlag f).index = s.index := rfl
@[simp] theorem State.setFlag_pc (f : Bool) : (s.setFlag f).pc = s.pc := rfl
@[simp] theorem State.setFlag_stack (f : Bool) : (s.setFlag f).stack = s.stack := rfl
@[simp] theorem State.setFlag_sp (f : Bool) : (s.setFlag f).sp = s.sp := rfl
@[simp] theorem State.setFlag_dt (f : Bool) : (s.setFlag f).dt = s.dt := rfl
@[simp] theorem State.setFlag_st (f : Bool) : (s.setFlag f).st = s.st := rfl
@[simp] theorem State.setFlag_keys (f : Bool) : (s.setFlag f).keys = s.keys := rfl
@[simp] theorem State.setFlag_disp (f : Bool) : (s.setFlag f).disp = s.disp := rfl
@[simp] theorem State.setFlag_quirks (f : Bool) : (s.setFlag f).quirks = s.quirks := rfl
@[simp] theorem State.setFlag_waitKey (f : Bool) : (s.setFlag f).waitKey = s.waitKey := rfl
@[simp] theorem State.setFlag_drawn (f : Bool) : (s.setFlag f).drawn = s.drawn := rfl
@[simp] theorem State.setFlag_fault (f : Bool) : (s.setFlag f).fault = s.fault := rfl
@[simp] theorem State.setFlag_started (f : Bool) : (s.setFlag f).started = s.started := rfl
@[simp] theorem State.setFlag_mem (f : Bool) : (s.setFlag f).mem = s.mem := rfl
@[simp] theorem State.setFlag_rndArg (f : Bool) : (s.setFlag f).rndArg = s.rndArg := rfl
@[simp] theorem State.setFlag_rndCount (f : Bool) : (s.setFlag f).rndCount = s.rndCount := rfl

/-! ### setIndex -/

@[simp] theorem State.setIndex_v (a : Word) : (s.setIndex a).v = s.v := rfl
@[simp] theorem State.setIndex_index (a : Word) : (s.setIndex a).index = a := rfl
@[simp] theorem State.setIndex_pc (a : Word) : (s.setIndex a).pc = s.pc := rfl
@[simp] theorem State.setIndex_stack (a : Word) : (s.setIndex a).stack = s.stack := rfl
@[simp] theorem State.setIndex_sp (a : Word) : (s.setIndex a).sp = s.sp := rfl
@[simp] theorem State.setIndex_dt (a : Word) : (s.setIndex a).dt = s.dt := rfl
@[simp] theorem State.setIndex_st (a : Word) : (s.setIndex a).st = s.st := rfl
@[simp] theorem State.setIndex_keys (a : Word) : (s.setIndex a).keys = s.keys := rfl
@[simp] theorem State.setIndex_disp (a : Word) : (s.setIndex a).disp = s.disp := rfl
@[simp] theorem State.setIndex_quirks (a : Word) : (s.setIndex a).quirks = s.quirks := rfl
@[simp] theorem State.setIndex_waitKey (a : Word) : (s.setIndex a).waitKey = s.waitKey := rfl
@[simp] theorem State.setIndex_drawn (a : Word) : (s.setIndex a).drawn = s.drawn := rfl
@[simp] theorem State.setIndex_fault (a : Word) : (s.setIndex a).fault = s.fault := rfl
@[simp] theorem State.setIndex_started (a : Word) : (s.setIndex a).started = s.started := rfl
@[simp] theorem State.setIndex_mem (a : Word) : (s.setIndex a).mem = s.mem := rfl
@[simp] theorem State.setIndex_rndArg (a : Word) : (s.setIndex a).rndArg = s.rndArg := rfl
@[simp] theorem State.setIndex_rndCount (a : Word) : (s.setIndex a).rndCount = s.rndCount := rfl
@[simp] theorem State.setIndex_reg (a : Word) (r : Reg) : (s.setIndex a).reg r = s.reg r := rfl

/-! ### setPc -/

@[simp] theorem State.setPc_v (a : Word) : (s.setPc a).v = s.v := rfl
@[simp] theorem State.setPc_index (a : Word) : (s.setPc a).index = s.index := rfl
@[simp] theorem State.setPc_pc (a : Word) : (s.setPc a).pc = a := rfl
@[simp] theorem State.setPc_stack (a : Word) : (s.setPc a).stack = s.stack := rfl
@[simp] theorem State.setPc_sp (a : Word) : (s.setPc a).sp = s.sp := rfl
@[simp] theorem State.setPc_dt (a : Word) : (s.setPc a).dt = s.dt := rfl
@[simp] theorem State.setPc_st (a : Word) : (s.setPc a).st = s.st := rfl
@[simp] theorem State.setPc_keys (a : Word) : (s.setPc a).keys = s.keys := rfl
@[simp] theorem State.setPc_disp (a : Word) : (s.setPc a).disp = s.disp := rfl
@[simp] theorem State.setPc_quirks (a : Word) : (s.setPc a).quirks = s.quirks := rfl
@[simp] theorem State.setPc_waitKey (a : Word) : (s.setPc a).waitKey = s.waitKey := rfl
@[simp] theorem State.setPc_drawn (a : Word) : (s.setPc a).drawn = s.drawn := rfl
@[simp] theorem State.setPc_fault (a : Word) : (s.setPc a).fault = s.fault := rfl
@[simp] theorem State.setPc_started (a : Word) : (s.setPc a).started = s.started := rfl
@[simp] theorem State.setPc_mem (a : Word) : (s.setPc a).mem = s.mem := rfl
@[simp] theorem State.setPc_rndArg (a : Word) : (s.setPc a).rndArg = s.rndArg := rfl
@[simp] theorem State.setPc_rndCount (a : Word) : (s.setPc a).rndCount = s.rndCount := rfl
@[simp] theorem State.setPc_reg (a : Word) (r : Reg) : (s.setPc a).reg r = s.reg r := rfl

/-! ### setMem -/

@[simp] theorem State.setMem_v (m : Memory) : (s.setMem m).v = s.v := rfl
@[simp] theorem State.setMem_index (m : Memory) : (s.setMem m).index = s.index := rfl
@[simp] theorem State.setMem_pc (m : Memory) : (s.setMem m).pc = s.pc := rfl
@[simp] theorem State.setMem_stack (m : Memory) : (s.setMem m).stack = s.stack := rfl
@[simp] theorem State.setMem_sp (m : Memory) : (s.setMem m).sp = s.sp := rfl
@[simp] theorem State.setMem_dt (m : Memory) : (s.setMem m).dt = s.dt := rfl
@[simp] theorem State.setMem_st (m : Memory) : (s.setMem m).st = s.st := rfl
@[simp] theorem State.setMem_keys (m : Memory) : (s.setMem m).keys = s.keys := rfl
@[simp] theorem State.setMem_disp (m : Memory) : (s.setMem m).disp = s.disp := rfl
@[simp] theorem State.setMem_quirks (m : Memory) : (s.setMem m).quirks = s.quirks := rfl
@[simp] theorem State.setMem_waitKey (m : Memory) : (s.setMem m).waitKey = s.waitKey := rfl
@[simp] theorem State.setMem_drawn (m : Memory) : (s.setMem m).drawn = s.drawn := rfl
@[simp] theorem State.setMem_fault (m : Memory) : (s.setMem m).fault = s.fault := rfl
@[simp] theorem State.setMem_started (m : Memory) : (s.setMem m).started = s.started := rfl
@[simp] theorem State.setMem_mem (m : Memory) : (s.setMem m).mem = m := rfl
@[simp] theorem State.setMem_rndArg (m : Memory) : (s.setMem m).rndArg = s.rndArg := rfl
@[simp] theorem State.setMem_rndCount (m : Memory) : (s.setMem m).rndCount = s.rndCount := rfl
@[simp] theorem State.setMem_reg (m : Memory) (r : Reg) : (s.setMem m).reg r = s.reg r := rfl

/-! ### setWaitKey -/

@[simp] theorem State.setWaitKey_v (k : Option (Fin 16)) : (s.setWaitKey k).v = s.v := rfl
@[simp] theorem State.setWaitKey_index (k : Option (Fin 16)) : (s.setWaitKey k).index = s.index := rfl
@[simp] theorem State.setWaitKey_pc (k : Option (Fin 16)) : (s.setWaitKey k).pc = s.pc := rfl
@[simp] theorem State.setWaitKey_stack (k : Option (Fin 16)) : (s.setWaitKey k).stack = s.stack := rfl
@[simp] theorem State.setWaitKey_sp (k : Option (Fin 16)) : (s.setWaitKey k).sp = s.sp := rfl
@[simp] theorem State.setWaitKey_dt (k : Option (Fin 16)) : (s.setWaitKey k).dt = s.dt := rfl
@[simp] theorem State.setWaitKey_st (k : Option (Fin 16)) : (s.setWaitKey k).st = s.st := rfl
@[simp] theorem State.setWaitKey_keys (k : Option (Fin 16)) : (s.setWaitKey k).keys = s.keys := rfl
@[simp] theorem State.setWaitKey_disp (k : Option (Fin 16)) : (s.setWaitKey k).disp = s.disp := rfl
@[simp] theorem State.setWaitKey_quirks (k : Option (Fin 16)) : (s.setWaitKey k).quirks = s.quirks := rfl
@[simp] theorem State.setWaitKey_waitKey (k : Option (Fin 16)) : (s.setWaitKey k).waitKey = k := rfl
@[simp] theorem State.setWaitKey_drawn (k : Option (Fin 16)) : (s.setWaitKey k).drawn = s.drawn := rfl
@[simp] theorem State.setWaitKey_fault (k : Option (Fin 16)) : (s.setWaitKey k).fault = s.fault := rfl
@[simp] theorem State.setWaitKey_started (k : Option (Fin 16)) : (s.setWaitKey k).started = s.started := rfl
@[simp] theorem State.setWaitKey_mem (k : Option (Fin 16)) : (s.setWaitKey k).mem = s.mem := rfl
@[simp] theorem State.setWaitKey_rndArg (k : Option (Fin 16)) : (s.setWaitKey k).rndArg = s.rndArg := rfl
@[simp] theorem State.setWaitKey_rndCount (k : Option (Fin 16)) : (s.setWaitKey k).rndCount = s.rndCount := rfl
@[simp] theorem State.setWaitKey_reg (k : Option (Fin 16)) (r : Reg) : (s.setWaitKey k).reg r = s.reg r := rfl

/-! ### setDt -/

@[simp] theorem State.setDt_v (b : Byte) : (s.setDt b).v = s.v := rfl
@[simp] theorem State.setDt_index (b : Byte) : (s.setDt b).index = s.index := rfl
@[simp] theorem State.setDt_pc (b : Byte) : (s.setDt b).pc = s.pc := rfl
@[simp] theorem State.setDt_stack (b : Byte) : (s.setDt b).stack = s.stack := rfl
@[simp] theorem State.setDt_sp (b : Byte) : (s.setDt b).sp = s.sp := rfl
@[simp] theorem State.setDt_dt (b : Byte) : (s.setDt b).dt = b := rfl
@[simp] theorem State.setDt_st (b : Byte) : (s.setDt b).st = s.st := rfl
@[simp] theorem State.setDt_keys (b : Byte) : (s.setDt b).keys = s.keys := rfl
@[simp] theorem State.setDt_disp (b : Byte) : (s.setDt b).disp = s.disp := rfl
@[simp] theorem State.setDt_quirks (b : Byte) : (s.setDt b).quirks = s.quirks := rfl
@[simp] theorem State.setDt_waitKey (b : Byte) : (s.setDt b).waitKey = s.waitKey := rfl
@[simp] theorem State.setDt_drawn (b : Byte) : (s.setDt b).drawn = s.drawn := rfl
@[simp] theorem State.setDt_fault (b : Byte) : (s.setDt b).fault = s.fault := rfl
@[simp] theorem State.setDt_started (b : Byte) : (s.setDt b).started = s.started := rfl
@[simp] theorem State.setDt_mem (b : Byte) : (s.setDt b).mem = s.mem := rfl
@[simp] theorem State.setDt_rndArg (b : Byte) : (s.setDt b).rndArg = s.rndArg := rfl
@[simp] theorem State.setDt_rndCount (b : Byte) : (s.setDt b).rndCount = s.rndCount := rfl
@[simp] theorem State.setDt_reg (b : Byte) (r : Reg) : (s.setDt b).reg r = s.reg r := rfl

/-! ### setSt -/

@[simp] theorem State.setSt_v (b : Byte) : (s.setSt b).v = s.v := rfl
@[simp] theorem State.setSt_index (b : Byte) : (s.setSt b).index = s.index := rfl
@[simp] theorem State.setSt_pc (b : Byte) : (s.setSt b).pc = s.pc := rfl
@[simp] theorem State.setSt_stack (b : Byte) : (s.setSt b).stack = s.stack := rfl
@[simp] theorem State.setSt_sp (b : Byte) : (s.setSt b).sp = s.sp := rfl
@[simp] theorem State.setSt_dt (b : Byte) : (s.setSt b).dt = s.dt := rfl
@[simp] theorem State.setSt_st (b : Byte) : (s.setSt b).st = b := rfl
@[simp] theorem State.setSt_keys (b : Byte) : (s.setSt b).keys = s.keys := rfl
@[simp] theorem State.setSt_disp (b : Byte) : (s.setSt b).disp = s.disp := rfl
@[simp] theorem State.setSt_quirks (b : Byte) : (s.setSt b).quirks = s.quirks := rfl
@[simp] theorem State.setSt_waitKey (b : Byte) : (s.setSt b).waitKey = s.waitKey := rfl
@[simp] theorem State.setSt_drawn (b : Byte) : (s.setSt b).drawn = s.drawn := rfl
@[simp] theorem State.setSt_fault (b : Byte) : (s.setSt b).fault = s.fault := rfl
@[simp] theorem State.setSt_started (b : Byte) : (s.setSt b).started = s.started := rfl
@[simp] theorem State.setSt_mem (b : Byte) : (s.setSt b).mem = s.mem := rfl
@[simp] theorem State.setSt_rndArg (b : Byte) : (s.setSt b).rndArg = s.rndArg := rfl
@[simp] theorem State.setSt_rndCount (b : Byte) : (s.setSt b).rndCount = s.rndCount := rfl
@[simp] theorem State.setSt_reg (b : Byte) (r : Reg) : (s.setSt b).reg r = s.reg r := rfl

/-! ### setDisp -/

@[simp] theorem State.setDisp_v (d : Display) : (s.setDisp d).v = s.v := rfl
@[simp] theorem State.setDisp_index (d : Display) : (s.setDisp d).index = s.index := rfl
@[simp] theorem State.setDisp_pc (d : Display) : (s.setDisp d).pc = s.pc := rfl
@[simp] theorem State.setDisp_stack (d : Display) : (s.setDisp d).stack = s.stack := rfl
@[simp] theorem State.setDisp_sp (d : Display) : (s.setDisp d).sp = s.sp := rfl
@[simp] theorem State.setDisp_dt (d : Display) : (s.setDisp d).dt = s.dt := rfl
@[simp] theorem State.setDisp_st (d : Display) : (s.setDisp d).st = s.st := rfl
@[simp] theorem State.setDisp_keys (d : Display) : (s.setDisp d).keys = s.keys := rfl
@[simp] theorem State.setDisp_disp (d : Display) : (s.setDisp d).disp = d := rfl
@[simp] theorem State.setDisp_quirks (d : Display) : (s.setDisp d).quirks = s.quirks := rfl
@[simp] theorem State.setDisp_waitKey (d : Display) : (s.setDisp d).waitKey = s.waitKey := rfl
@[simp] theorem State.setDisp_drawn (d : Display) : (s.setDisp d).drawn = s.drawn := rfl
@[simp] theorem State.setDisp_fault (d : Display) : (s.setDisp d).fault = s.fault := rfl
@[simp] theorem State.setDisp_started (d : Display) : (s.setDisp d).started = s.started := rfl
@[simp] theorem State.setDisp_mem (d : Display) : (s.setDisp d).mem = s.mem := rfl
@[simp] theorem State.setDisp_rndArg (d : Display) : (s.setDisp d).rndArg = s.rndArg := rfl
@[simp] theorem State.setDisp_rndCount (d : Display) : (s.setDisp d).rndCount = s.rndCount := rfl
@[simp] theorem State.setDisp_reg (d : Display) (r : Reg) : (s.setDisp d).reg r = s.reg r := rfl

/-! ### setStack -/

@[simp] theorem State.setStack_v (a : Vector Word 64) : (s.setStack a).v = s.v := rfl
@[simp] theorem State.setStack_index (a : Vector Word 64) : (s.setStack a).index = s.index := rfl
@[simp] theorem State.setStack_pc (a : Vector Word 64) : (s.setStack a).pc = s.pc := rfl
@[simp] theorem State.setStack_stack (a : Vector Word 64) : (s.setStack a).stack = a := rfl
@[simp] theorem State.setStack_sp (a : Vector Word 64) : (s.setStack a).sp = s.sp := rfl
@[simp] theorem State.setStack_dt (a : Vector Word 64) : (s.setStack a).dt = s.dt := rfl
@[simp] theorem State.setStack_st (a : Vector Word 64) : (s.setStack a).st = s.st := rfl
@[simp] theorem State.setStack_keys (a : Vector Word 64) : (s.setStack a).keys = s.keys := rfl
@[simp] theorem State.setStack_disp (a : Vector Word 64) : (s.setStack a).disp = s.disp := rfl
@[simp] theorem State.setStack_quirks (a : Vector Word 64) : (s.setStack a).quirks = s.quirks := rfl
@[simp] theorem State.setStack_waitKey (a : Vector Word 64) : (s.setStack a).waitKey = s.waitKey := rfl
@[simp] theorem State.setStack_drawn (a : Vector Word 64) : (s.setStack a).drawn = s.drawn := rfl
@[simp] theorem State.setStack_fault (a : Vector Word 64) : (s.setStack a).fault = s.fault := rfl
@[simp] theorem State.setStack_started (a : Vector Word 64) : (s.setStack a).started = s.started := rfl
@[simp] theorem State.setStack_mem (a : Vector Word 64) : (s.setStack a).mem = s.mem := rfl
@[simp] theorem State.setStack_rndArg (a : Vector Word 64) : (s.setStack a).rndArg = s.rndArg := rfl
@[simp] theorem State.setStack_rndCount (a : Vector Word 64) : (s.setStack a).rndCount = s.rndCount := rfl
@[simp] theorem State.setStack_reg (a : Vector Word 64) (r : Reg) : (s.setStack a).reg r = s.reg r := rfl

/-! ### setSp -/

@[simp] theorem State.setSp_v (n : Fin 65) : (s.setSp n).v = s.v := rfl
@[simp] theorem State.setSp_index (n : Fin 65) : (s.setSp n).index = s.index := rfl
@[simp] theorem State.setSp_pc (n : Fin 65) : (s.setSp n).pc = s.pc := rfl
@[simp] theorem State.setSp_stack (n : Fin 65) : (s.setSp n).stack = s.stack := rfl
@[simp] theorem State.setSp_sp (n : Fin 65) : (s.setSp n).sp = n := rfl
@[simp] theorem State.setSp_dt (n : Fin 65) : (s.setSp n).dt = s.dt := rfl
@[simp] theorem State.setSp_st (n : Fin 65) : (s.setSp n).st = s.st := rfl
@[simp] theorem State.setSp_keys (n : Fin 65) : (s.setSp n).keys = s.keys := rfl
@[simp] theorem State.setSp_disp (n : Fin 65) : (s.setSp n).disp = s.disp := rfl
@[simp] theorem State.setSp_quirks (n : Fin 65) : (s.setSp n).quirks = s.quirks := rfl
@[simp] theorem State.setSp_waitKey (n : Fin 65) : (s.setSp n).waitKey = s.waitKey := rfl
@[simp] theorem State.setSp_drawn (n : Fin 65) : (s.setSp n).drawn = s.drawn := rfl
@[simp] theorem State.setSp_fault (n : Fin 65) : (s.setSp n).fault = s.fault := rfl
@[simp] theorem State.setSp_started (n : Fin 65) : (s.setSp n).started = s.started := rfl
@[simp] theorem State.setSp_mem (n : Fin 65) : (s.setSp n).mem = s.mem := rfl
@[simp] theorem State.setSp_rndArg (n : Fin 65) : (s.setSp n).rndArg = s.rndArg := rfl
@[simp] theorem State.setSp_rndCount (n : Fin 65) : (s.setSp n).rndCount = s.rndCount := rfl
@[simp] theorem State.setSp_reg (n : Fin 65) (r : Reg) : (s.setSp n).reg r = s.reg r := rfl

/-! ### setDrawn -/

@[simp] theorem State.setDrawn_v (b : Bool) : (s.setDrawn b).v = s.v := rfl
@[simp] theorem State.setDrawn_index (b : Bool) : (s.setDrawn b).index = s.index := rfl
@[simp] theorem State.setDrawn_pc (b : Bool) : (s.setDrawn b).pc = s.pc := rfl
@[simp] theorem State.setDrawn_stack (b : Bool) : (s.setDrawn b).stack = s.stack := rfl
@[simp] theorem State.setDrawn_sp (b : Bool) : (s.setDrawn b).sp = s.sp := rfl
@[simp] theorem State.setDrawn_dt (b : Bool) : (s.setDrawn b).dt = s.dt := rfl
@[simp] theorem State.setDrawn_st (b : Bool) : (s.setDrawn b).st = s.st := rfl
@[simp] theorem State.setDrawn_keys (b : Bool) : (s.setDrawn b).keys = s.keys := rfl
@[simp] theorem State.setDrawn_disp (b : Bool) : (s.setDrawn b).disp = s.disp := rfl
@[simp] theorem State.setDrawn_quirks (b : Bool) : (s.setDrawn b).quirks = s.quirks := rfl
@[simp] theorem State.setDrawn_waitKey (b : Bool) : (s.setDrawn b).waitKey = s.waitKey := rfl
@[simp] theorem State.setDrawn_drawn (b : Bool) : (s.setDrawn b).drawn = b := rfl
@[simp] theorem State.setDrawn_fault (b : Bool) : (s.setDrawn b).fault = s.fault := rfl
@[simp] theorem State.setDrawn_started (b : Bool) : (s.setDrawn b).started = s.started := rfl
@[simp] theorem State.setDrawn_mem (b : Bool) : (s.setDrawn b).mem = s.mem := rfl
@[simp] theorem State.setDrawn_rndArg (b : Bool) : (s.setDrawn b).rndArg = s.rndArg := rfl
@[simp] theorem State.setDrawn_rndCount (b : Bool) : (s.setDrawn b).rndCount = s.rndCount := rfl
@[simp] theorem State.setDrawn_reg (b : Bool) (r : Reg) : (s.setDrawn b).reg r = s.reg r := rfl

/-! ### setFault -/

@[simp] theorem State.setFault_v (f : Option FaultRecord) : (s.setFault f).v = s.v := rfl
@[simp] theorem State.setFault_index (f : Option FaultRecord) : (s.setFault f).index = s.index := rfl
@[simp] theorem State.setFault_pc (f : Option FaultRecord) : (s.setFault f).pc = s.pc := rfl
@[simp] theorem State.setFault_stack (f : Option FaultRecord) : (s.setFault f).stack = s.stack := rfl
@[simp] theorem State.setFault_sp (f : Option FaultRecord) : (s.setFault f).sp = s.sp := rfl
@[simp] theorem State.setFault_dt (f : Option FaultRecord) : (s.setFault f).dt = s.dt := rfl
@[simp] theorem State.setFault_st (f : Option FaultRecord) : (s.setFault f).st = s.st := rfl
@[simp] theorem State.setFault_keys (f : Option FaultRecord) : (s.setFault f).keys = s.keys := rfl
@[simp] theorem State.setFault_disp (f : Option FaultRecord) : (s.setFault f).disp = s.disp := rfl
@[simp] theorem State.setFault_quirks (f : Option FaultRecord) : (s.setFault f).quirks = s.quirks := rfl
@[simp] theorem State.setFault_waitKey (f : Option FaultRecord) : (s.setFault f).waitKey = s.waitKey := rfl
@[simp] theorem State.setFault_drawn (f : Option FaultRecord) : (s.setFault f).drawn = s.drawn := rfl
@[simp] theorem State.setFault_fault (f : Option FaultRecord) : (s.setFault f).fault = f := rfl
@[simp] theorem State.setFault_started (f : Option FaultRecord) : (s.setFault f).started = s.started := rfl
@[simp] theorem State.setFault_mem (f : Option FaultRecord) : (s.setFault f).mem = s.mem := rfl
@[simp] theorem State.setFault_rndArg (f : Option FaultRecord) : (s.setFault f).rndArg = s.rndArg := rfl
@[simp] theorem State.setFault_rndCount (f : Option FaultRecord) : (s.setFault f).rndCount = s.rndCount := rfl
@[simp] theorem State.setFault_reg (f : Option FaultRecord) (r : Reg) : (s.setFault f).reg r = s.reg r := rfl

/-! ### setStarted -/

@[simp] theorem State.setStarted_v (b : Bool) : (s.setStarted b).v = s.v := rfl
@[simp] theorem State.setStarted_index (b : Bool) : (s.setStarted b).index = s.index := rfl
@[simp] theorem State.setStarted_pc (b : Bool) : (s.setStarted b).pc = s.pc := rfl
@[simp] theorem State.setStarted_stack (b : Bool) : (s.setStarted b).stack = s.stack := rfl
@[simp] theorem State.setStarted_sp (b : Bool) : (s.setStarted b).sp = s.sp := rfl
@[simp] theorem State.setStarted_dt (b : Bool) : (s.setStarted b).dt = s.dt := rfl
@[simp] theorem State.setStarted_st (b : Bool) : (s.setStarted b).st = s.st := rfl
@[simp] theorem State.setStarted_keys (b : Bool) : (s.setStarted b).keys = s.keys := rfl
@[simp] theorem State.setStarted_disp (b : Bool) : (s.setStarted b).disp = s.disp := rfl
@[simp] theorem State.setStarted_quirks (b : Bool) : (s.setStarted b).quirks = s.quirks := rfl
@[simp] theorem State.setStarted_waitKey (b : Bool) : (s.setStarted b).waitKey = s.waitKey := rfl
@[simp] theorem State.setStarted_drawn (b : Bool) : (s.setStarted b).drawn = s.drawn := rfl
@[simp] theorem State.setStarted_fault (b : Bool) : (s.setStarted b).fault = s.fault := rfl
@[simp] theorem State.setStarted_started (b : Bool) : (s.setStarted b).started = b := rfl
@[simp] theorem State.setStarted_mem (b : Bool) : (s.setStarted b).mem = s.mem := rfl
@[simp] theorem State.setStarted_rndArg (b : Bool) : (s.setStarted b).rndArg = s.rndArg := rfl
@[simp] theorem State.setStarted_rndCount (b : Bool) : (s.setStarted b).rndCount = s.rndCount := rfl
@[simp] theorem State.setStarted_reg (b : Bool) (r : Reg) : (s.setStarted b).reg r = s.reg r := rfl

/-! ### setQuirks -/

@[simp] theorem State.setQuirks_v (q : Quirks) : (s.setQuirks q).v = s.v := rfl
@[simp] theorem State.setQuirks_index (q : Quirks) : (s.setQuirks q).index = s.index := rfl
@[simp] theorem State.setQuirks_pc (q : Quirks) : (s.setQuirks q).pc = s.pc := rfl
@[simp] theorem State.setQuirks_stack (q : Quirks) : (s.setQuirks q).stack = s.stack := rfl
@[simp] theorem State.setQuirks_sp (q : Quirks) : (s.setQuirks q).sp = s.sp := rfl
@[simp] theorem State.setQuirks_dt (q : Quirks) : (s.setQuirks q).dt = s.dt := rfl
@[simp] theorem State.setQuirks_st (q : Quirks) : (s.setQuirks q).st = s.st := rfl
@[simp] theorem State.setQuirks_keys (q : Quirks) : (s.setQuirks q).keys = s.keys := rfl
@[simp] theorem State.setQuirks_disp (q : Quirks) : (s.setQuirks q).disp = s.disp := rfl
@[simp] theorem State.setQuirks_quirks (q : Quirks) : (s.setQuirks q).quirks = q := rfl
@[simp] theorem State.setQuirks_waitKey (q : Quirks) : (s.setQuirks q).waitKey = s.waitKey := rfl
@[simp] theorem State.setQuirks_drawn (q : Quirks) : (s.setQuirks q).drawn = s.drawn := rfl
@[simp] theorem State.setQuirks_fault (q : Quirks) : (s.setQuirks q).fault = s.fault := rfl
@[simp] theorem State.setQuirks_started (q : Quirks) : (s.setQuirks q).started = s.started := rfl
@[simp] theorem State.setQuirks_mem (q : Quirks) : (s.setQuirks q).mem = s.mem := rfl
@[simp] theorem State.setQuirks_rndArg (q : Quirks) : (s.setQuirks q).rndArg = s.rndArg := rfl
@[simp] theorem State.setQuirks_rndCount (q : Quirks) : (s.setQuirks q).rndCount = s.rndCount := rfl
@[simp] theorem State.setQuirks_reg (q : Quirks) (r : Reg) : (s.setQuirks q).reg r = s.reg r := rfl

/-! ### setRnd -/

@[simp] theorem State.setRnd_v (a : Option Byte) (n : Nat) : (s.setRnd a n).v = s.v := rfl
@[simp] theorem State.setRnd_index (a : Option Byte) (n : Nat) : (s.setRnd a n).index = s.index := rfl
@[simp] theorem State.setRnd_pc (a : Option Byte) (n : Nat) : (s.setRnd a n).pc = s.pc := rfl
@[simp] theorem State.setRnd_stack (a : Option Byte) (n : Nat) : (s.setRnd a n).stack = s.stack := rfl
@[simp] theorem State.setRnd_sp (a : Option Byte) (n : Nat) : (s.setRnd a n).sp = s.sp := rfl
@[simp] theorem State.setRnd_dt (a : Option Byte) (n : Nat) : (s.setRnd a n).dt = s.dt := rfl
@[simp] theorem State.setRnd_st (a : Option Byte) (n : Nat) : (s.setRnd a n).st = s.st := rfl
@[simp] theorem State.setRnd_keys (a : Option Byte) (n : Nat) : (s.setRnd a n).keys = s.keys := rfl
@[simp] theorem State.setRnd_disp (a : Option Byte) (n : Nat) : (s.setRnd a n).disp = s.disp := rfl
@[simp] theorem State.setRnd_quirks (a : Option Byte) (n : Nat) : (s.setRnd a n).quirks = s.quirks := rfl
@[simp] theorem State.setRnd_waitKey (a : Option Byte) (n : Nat) : (s.setRnd a n).waitKey = s.waitKey := rfl
@[simp] theorem State.setRnd_drawn (a : Option Byte) (n : Nat) : (s.setRnd a n).drawn = s.drawn := rfl
@[simp] theorem State.setRnd_fault (a : Option Byte) (n : Nat) : (s.setRnd a n).fault = s.fault := rfl
@[simp] theorem State.setRnd_started (a : Option Byte) (n : Nat) : (s.setRnd a n).started = s.started := rfl
@[simp] theorem State.setRnd_mem (a : Option Byte) (n : Nat) : (s.setRnd a n).mem = s.mem := rfl
@[simp] theorem State.setRnd_rndArg (a : Option Byte) (n : Nat) : (s.setRnd a n).rndArg = a := rfl
@[simp] theorem State.setRnd_rndCount (a : Option Byte) (n : Nat) : (s.setRnd a n).rndCount = n := rfl
@[simp] theorem State.setRnd_reg (a : Option Byte) (n : Nat) (r : Reg) : (s.setRnd a n).reg r = s.reg r := rfl

/-! ### useRnd -/

@[simp] theorem State.useRnd_v : s.useRnd.v = s.v := rfl
@[simp] theorem State.useRnd_index : s.useRnd.index = s.index := rfl
@[simp] theorem State.useRnd_pc : s.useRnd.pc = s.pc := rfl
@[simp] theorem State.useRnd_stack : s.useRnd.stack = s.stack := rfl
@[simp] theorem State.useRnd_sp : s.useRnd.sp = s.sp := rfl
@[simp] theorem State.useRnd_dt : s.useRnd.dt = s.dt := rfl
@[simp] theorem State.useRnd_st : s.useRnd.st = s.st := rfl
@[simp] theorem State.useRnd_keys : s.useRnd.keys = s.keys := rfl
@[simp] theorem State.useRnd_disp : s.useRnd.disp = s.disp := rfl
@[simp] theorem State.useRnd_quirks : s.useRnd.quirks = s.quirks := rfl
@[simp] theorem State.useRnd_waitKey : s.useRnd.waitKey = s.waitKey := rfl
@[simp] theorem State.useRnd_drawn : s.useRnd.drawn = s.drawn := rfl
@[simp] theorem State.useRnd_fault : s.useRnd.fault = s.fault := rfl
@[simp] theorem State.useRnd_started : s.useRnd.started = s.started := rfl
@[simp] theorem State.useRnd_mem : s.useRnd.mem = s.mem := rfl
@[simp] theorem State.useRnd_rndArg : s.useRnd.rndArg = none := rfl
@[simp] theorem State.useRnd_rndCount : s.useRnd.rndCount = s.rndCount + 1 := rfl
@[simp] theorem State.useRnd_reg (r : Reg) : s.useRnd.reg r = s.reg r := rfl

/-! ### stall -/

@[simp] theorem State.stall_v : s.stall.v = s.v := rfl
@[simp] theorem State.stall_index : s.stall.index = s.index := rfl
@[simp] theorem State.stall_pc : s.stall.pc = s.pc - 2 := rfl
@[simp] theorem State.stall_stack : s.stall.stack = s.stack := rfl
@[simp] theorem State.stall_sp : s.stall.sp = s.sp := rfl
@[simp] theorem State.stall_dt : s.stall.dt = s.dt := rfl
@[simp] theorem State.stall_st : s.stall.st = s.st := rfl
@[simp] theorem State.stall_keys : s.stall.keys = s.keys := rfl
@[simp] theorem State.stall_disp : s.stall.disp = s.disp := rfl
@[simp] theorem State.stall_quirks : s.stall.quirks = s.quirks := rfl
@[simp] theorem State.stall_waitKey : s.stall.waitKey = s.waitKey := rfl
@[simp] theorem State.stall_drawn : s.stall.drawn = s.drawn := rfl
@[simp] theorem State.stall_fault : s.stall.fault = s.fault := rfl
@[simp] theorem State.stall_started : s.stall.started = s.started := rfl
@[simp] theorem State.stall_mem : s.stall.mem = s.mem := rfl
@[simp] theorem State.stall_rndArg : s.stall.rndArg = s.rndArg := rfl
@[simp] theorem State.stall_rndCount : s.stall.rndCount = s.rndCount := rfl
@[simp] theorem State.stall_reg (r : Reg) : s.stall.reg r = s.reg r := rfl

/-! ### start -/

@[simp] theorem State.start_v : s.start.v = s.v := rfl
@[simp] theorem State.start_index : s.start.index = s.index := rfl
@[simp] theorem State.start_pc : s.start.pc = s.pc := rfl
@[simp] theorem State.start_stack : s.start.stack = s.stack := rfl
@[simp] theorem State.start_sp : s.start.sp = s.sp := rfl
@[simp] theorem State.start_dt : s.start.dt = s.dt := rfl
@[simp] theorem State.start_st : s.start.st = s.st := rfl
@[simp] theorem State.start_keys : s.start.keys = s.keys := rfl
@[simp] theorem State.start_disp : s.start.disp = s.disp := rfl
@[simp] theorem State.start_quirks : s.start.quirks = s.quirks := rfl
@[simp] theorem State.start_waitKey : s.start.waitKey = s.waitKey := rfl
@[simp] theorem State.start_drawn : s.start.drawn = s.drawn := rfl
@[simp] theorem State.start_fault : s.start.fault = s.fault := rfl
@[simp] theorem State.start_started : s.start.started = true := rfl
@[simp] theorem State.start_mem : s.start.mem = s.mem := rfl
@[simp] theorem State.start_rndArg : s.start.rndArg = s.rndArg := rfl
@[simp] theorem State.start_rndCount : s.start.rndCount = s.rndCount := rfl
@[simp] theorem State.start_reg (r : Reg) : s.start.reg r = s.reg r := rfl

/-! ### advance -/

@[simp] theorem State.advance_v : s.advance.v = s.v := rfl
@[simp] theorem State.advance_index : s.advance.index = s.index := rfl
@[simp] theorem State.advance_pc : s.advance.pc = s.pc + 2 := rfl
@[simp] theorem State.advance_stack : s.advance.stack = s.stack := rfl
@[simp] theorem State.advance_sp : s.advance.sp = s.sp := rfl
@[simp] theorem State.advance_dt : s.advance.dt = s.dt := rfl
@[simp] theorem State.advance_st : s.advance.st = s.st := rfl
@[simp] theorem State.advance_keys : s.advance.keys = s.keys := rfl
@[simp] theorem State.advance_disp : s.advance.disp = s.disp := rfl
@[simp] theorem State.advance_quirks : s.advance.quirks = s.quirks := rfl
@[simp] theorem State.advance_waitKey : s.advance.waitKey = s.waitKey := rfl
@[simp] theorem State.advance_drawn : s.advance.drawn = s.drawn := rfl
@[simp] theorem State.advance_fault : s.advance.fault = s.fault := rfl
@[simp] theorem State.advance_started : s.advance.started = s.started := rfl
@[simp] theorem State.advance_mem : s.advance.mem = s.mem := rfl
@[simp] theorem State.advance_rndArg : s.advance.rndArg = s.rndArg := rfl
@[simp] theorem State.advance_rndCount : s.advance.rndCount = s.rndCount := rfl
@[simp] theorem State.advance_reg (r : Reg) : s.advance.reg r = s.reg r := rfl

/-! ### latchFault -/

@[simp] theorem State.latchFault_v (k : FaultKind) (a w : Word) : (s.latchFault k a w).v = s.v := rfl
@[simp] theorem State.latchFault_index (k : FaultKind) (a w : Word) : (s.latchFault k a w).index = s.index := rfl
@[simp] theorem State.latchFault_pc (k : FaultKind) (a w : Word) : (s.latchFault k a w).pc = a := rfl
@[simp] theorem State.latchFault_stack (k : FaultKind) (a w : Word) : (s.latchFault k a w).stack = s.stack := rfl
@[simp] theorem State.latchFault_sp (k : FaultKind) (a w : Word) : (s.latchFault k a w).sp = s.sp := rfl
@[simp] theorem State.latchFault_dt (k : FaultKind) (a w : Word) : (s.latchFault k a w).dt = s.dt := rfl
@[simp] theorem State.latchFault_st (k : FaultKind) (a w : Word) : (s.latchFault k a w).st = s.st := rfl
@[simp] theorem State.latchFault_keys (k : FaultKind) (a w : Word) : (s.latchFault k a w).keys = s.keys := rfl
@[simp] theorem State.latchFault_disp (k : FaultKind) (a w : Word) : (s.latchFault k a w).disp = s.disp := rfl
@[simp] theorem State.latchFault_quirks (k : FaultKind) (a w : Word) : (s.latchFault k a w).quirks = s.quirks := rfl
@[simp] theorem State.latchFault_waitKey (k : FaultKind) (a w : Word) : (s.latchFault k a w).waitKey = s.waitKey := rfl
@[simp] theorem State.latchFault_drawn (k : FaultKind) (a w : Word) : (s.latchFault k a w).drawn = s.drawn := rfl
@[simp] theorem State.latchFault_fault (k : FaultKind) (a w : Word) : (s.latchFault k a w).fault = some ⟨k, a, w⟩ := rfl
@[simp] theorem State.latchFault_started (k : FaultKind) (a w : Word) : (s.latchFault k a w).started = s.started := rfl
@[simp] theorem State.latchFault_mem (k : FaultKind) (a w : Word) : (s.latchFault k a w).mem = s.mem := rfl
@[simp] theorem State.latchFault_rndArg (k : FaultKind) (a w : Word) : (s.latchFault k a w).rndArg = s.rndArg := rfl
@[simp] theorem State.latchFault_rndCount (k : FaultKind) (a w : Word) : (s.latchFault k a w).rndCount = s.rndCount := rfl
@[simp] theorem State.latchFault_reg (k : FaultKind) (a w : Word) (r : Reg) : (s.latchFault k a w).reg r = s.reg r := rfl

/-! ### Registers after a register write (R22) -/

theorem State.setReg_reg (r q : Reg) (b : Byte) : (s.setReg r b).reg q = if q = r then b else s.reg q := by
  simp only [State.reg, State.setReg, Vector.get_eq_getElem, Vector.getElem_set, Fin.ext_iff, eq_comm]

@[simp] theorem State.setReg_reg_same (r : Reg) (b : Byte) : (s.setReg r b).reg r = b := by
  simp [State.setReg_reg]

theorem State.setReg_reg_other (r : Reg) (b : Byte) (h : q ≠ r) : (s.setReg r b).reg q = s.reg q := by
  simp [State.setReg_reg, h]

theorem State.setFlag_reg (q : Reg) (f : Bool) : (s.setFlag f).reg q = if q = vf then flagByte f else s.reg q :=
  s.setReg_reg vf q (flagByte f)

/-- The result is written first and VF last (R22, R132). -/
theorem State.setResultThenFlag_reg (x q : Reg) (b : Byte) (f : Bool) :
    (s.setResultThenFlag x b f).reg q = if q = vf then flagByte f else if q = x then b else s.reg q := by
  rw [State.setResultThenFlag, State.setFlag_reg, State.setReg_reg]

theorem State.setLogicResult_reg (x q : Reg) (b : Byte) :
    (s.setLogicResult x b).reg q =
      if s.quirks.logicResetsVf = true ∧ q = vf then 0 else if q = x then b else s.reg q := by
  unfold State.setLogicResult
  split <;> rename_i h <;> simp [h, State.setResultThenFlag_reg, State.setReg_reg, flagByte]

/-! ### The index register after the advance of R145 and R146 -/

theorem State.advanceIndex_index (x : Reg) :
    (s.advanceIndex x).index = if s.quirks.memAdvancesI then s.index + BitVec.ofNat 16 (x.val + 1) else s.index := by
  unfold State.advanceIndex; split <;> rfl

/-! ### A conditional update: only its own piece can change -/

@[simp] theorem State.skipIf_v (c : Bool) : (s.skipIf c).v = s.v := by
  unfold State.skipIf; split <;> rfl
@[simp] theorem State.skipIf_index (c : Bool) : (s.skipIf c).index = s.index := by
  unfold State.skipIf; split <;> rfl
@[simp] theorem State.skipIf_stack (c : Bool) : (s.skipIf c).stack = s.stack := by
  unfold State.skipIf; split <;> rfl
@[simp] theorem State.skipIf_sp (c : Bool) : (s.skipIf c).sp = s.sp := by
  unfold State.skipIf; split <;> rfl
@[simp] theorem State.skipIf_dt (c : Bool) : (s.skipIf c).dt = s.dt := by
  unfold State.skipIf; split <;> rfl
@[simp] theorem State.skipIf_st (c : Bool) : (s.skipIf c).st = s.st := by
  unfold State.skipIf; split <;> rfl
@[simp] theorem State.skipIf_keys (c : Bool) : (s.skipIf c).keys = s.keys := by
  unfold State.skipIf; split <;> rfl
@[simp] theorem State.skipIf_disp (c : Bool) : (s.skipIf c).disp = s.disp := by
  unfold State.skipIf; split <;> rfl
@[simp] theorem State.skipIf_quirks (c : Bool) : (s.skipIf c).quirks = s.quirks := by
  unfold State.skipIf; split <;> rfl
@[simp] theorem State.skipIf_waitKey (c : Bool) : (s.skipIf c).waitKey = s.waitKey := by
  unfold State.skipIf; split <;> rfl
@[simp] theorem State.skipIf_drawn (c : Bool) : (s.skipIf c).drawn = s.drawn := by
  unfold State.skipIf; split <;> rfl
@[simp] theorem State.skipIf_fault (c : Bool) : (s.skipIf c).fault = s.fault := by
  unfold State.skipIf; split <;> rfl
@[simp] theorem State.skipIf_started (c : Bool) : (s.skipIf c).started = s.started := by
  unfold State.skipIf; split <;> rfl
@[simp] theorem State.skipIf_mem (c : Bool) : (s.skipIf c).mem = s.mem := by
  unfold State.skipIf; split <;> rfl
@[simp] theorem State.skipIf_rndArg (c : Bool) : (s.skipIf c).rndArg = s.rndArg := by
  unfold State.skipIf; split <;> rfl
@[simp] theorem State.skipIf_rndCount (c : Bool) : (s.skipIf c).rndCount = s.rndCount := by
  unfold State.skipIf; split <;> rfl
@[simp] theorem State.skipIf_reg (c : Bool) (q : Reg) : (s.skipIf c).reg q = s.reg q := by
  unfold State.skipIf; split <;> rfl

@[simp] theorem State.setResultThenFlag_index (x : Reg) (b : Byte) (f : Bool) : (s.setResultThenFlag x b f).index = s.index := rfl
@[simp] theorem State.setResultThenFlag_pc (x : Reg) (b : Byte) (f : Bool) : (s.setResultThenFlag x b f).pc = s.pc := rfl
@[simp] theorem State.setResultThenFlag_stack (x : Reg) (b : Byte) (f : Bool) : (s.setResultThenFlag x b f).stack = s.stack := rfl
@[simp] theorem State.setResultThenFlag_sp (x : Reg) (b : Byte) (f : Bool) : (s.setResultThenFlag x b f).sp = s.sp := rfl
@[simp] theorem State.setResultThenFlag_dt (x : Reg) (b : Byte) (f : Bool) : (s.setResultThenFlag x b f).dt = s.dt := rfl
@[simp] theorem State.setResultThenFlag_st (x : Reg) (b : Byte) (f : Bool) : (s.setResultThenFlag x b f).st = s.st := rfl
@[simp] theorem State.setResultThenFlag_keys (x : Reg) (b : Byte) (f : Bool) : (s.setResultThenFlag x b f).keys = s.keys := rfl
@[simp] theorem State.setResultThenFlag_disp (x : Reg) (b : Byte) (f : Bool) : (s.setResultThenFlag x b f).disp = s.disp := rfl
@[simp] theorem State.setResultThenFlag_quirks (x : Reg) (b : Byte) (f : Bool) : (s.setResultThenFlag x b f).quirks = s.quirks := rfl
@[simp] theorem State.setResultThenFlag_waitKey (x : Reg) (b : Byte) (f : Bool) : (s.setResultThenFlag x b f).waitKey = s.waitKey := rfl
@[simp] theorem State.setResultThenFlag_drawn (x : Reg) (b : Byte) (f : Bool) : (s.setResultThenFlag x b f).drawn = s.drawn := rfl
@[simp] theorem State.setResultThenFlag_fault (x : Reg) (b : Byte) (f : Bool) : (s.setResultThenFlag x b f).fault = s.fault := rfl
@[simp] theorem State.setResultThenFlag_started (x : Reg) (b : Byte) (f : Bool) : (s.setResultThenFlag x b f).started = s.started := rfl
@[simp] theorem State.setResultThenFlag_mem (x : Reg) (b : Byte) (f : Bool) : (s.setResultThenFlag x b f).mem = s.mem := rfl
@[simp] theorem State.setResultThenFlag_rndArg (x : Reg) (b : Byte) (f : Bool) : (s.setResultThenFlag x b f).rndArg = s.rndArg := rfl
@[simp] theorem State.setResultThenFlag_rndCount (x : Reg) (b : Byte) (f : Bool) : (s.setResultThenFlag x b f).rndCount = s.rndCount := rfl

@[simp] theorem State.setLogicResult_index (x : Reg) (b : Byte) : (s.setLogicResult x b).index = s.index := by
  unfold State.setLogicResult; split <;> rfl
@[simp] theorem State.setLogicResult_pc (x : Reg) (b : Byte) : (s.setLogicResult x b).pc = s.pc := by
  unfold State.setLogicResult; split <;> rfl
@[simp] theorem State.setLogicResult_stack (x : Reg) (b : Byte) : (s.setLogicResult x b).stack = s.stack := by
  unfold State.setLogicResult; split <;> rfl
@[simp] theorem State.setLogicResult_sp (x : Reg) (b : Byte) : (s.setLogicResult x b).sp = s.sp := by
  unfold State.setLogicResult; split <;> rfl
@[simp] theorem State.setLogicResult_dt (x : Reg) (b : Byte) : (s.setLogicResult x b).dt = s.dt := by
  unfold State.setLogicResult; split <;> rfl
@[simp] theorem State.setLogicResult_st (x : Reg) (b : Byte) : (s.setLogicResult x b).st = s.st := by
  unfold State.setLogicResult; split <;> rfl
@[simp] theorem State.setLogicResult_keys (x : Reg) (b : Byte) : (s.setLogicResult x b).keys = s.keys := by
  unfold State.setLogicResult; split <;> rfl
@[simp] theorem State.setLogicResult_disp (x : Reg) (b : Byte) : (s.setLogicResult x b).disp = s.disp := by
  unfold State.setLogicResult; split <;> rfl
@[simp] theorem State.setLogicResult_quirks (x : Reg) (b : Byte) : (s.setLogicResult x b).quirks = s.quirks := by
  unfold State.setLogicResult; split <;> rfl
@[simp] theorem State.setLogicResult_waitKey (x : Reg) (b : Byte) : (s.setLogicResult x b).waitKey = s.waitKey := by
  unfold State.setLogicResult; split <;> rfl
@[simp] theorem State.setLogicResult_drawn (x : Reg) (b : Byte) : (s.setLogicResult x b).drawn = s.drawn := by
  unfold State.setLogicResult; split <;> rfl
@[simp] theorem State.setLogicResult_fault (x : Reg) (b : Byte) : (s.setLogicResult x b).fault = s.fault := by
  unfold State.setLogicResult; split <;> rfl
@[simp] theorem State.setLogicResult_started (x : Reg) (b : Byte) : (s.setLogicResult x b).started = s.started := by
  unfold State.setLogicResult; split <;> rfl
@[simp] theorem State.setLogicResult_mem (x : Reg) (b : Byte) : (s.setLogicResult x b).mem = s.mem := by
  unfold State.setLogicResult; split <;> rfl
@[simp] theorem State.setLogicResult_rndArg (x : Reg) (b : Byte) : (s.setLogicResult x b).rndArg = s.rndArg := by
  unfold State.setLogicResult; split <;> rfl
@[simp] theorem State.setLogicResult_rndCount (x : Reg) (b : Byte) : (s.setLogicResult x b).rndCount = s.rndCount := by
  unfold State.setLogicResult; split <;> rfl

@[simp] theorem State.advanceIndex_v (x : Reg) : (s.advanceIndex x).v = s.v := by
  unfold State.advanceIndex; split <;> rfl
@[simp] theorem State.advanceIndex_pc (x : Reg) : (s.advanceIndex x).pc = s.pc := by
  unfold State.advanceIndex; split <;> rfl
@[simp] theorem State.advanceIndex_stack (x : Reg) : (s.advanceIndex x).stack = s.stack := by
  unfold State.advanceIndex; split <;> rfl
@[simp] theorem State.advanceIndex_sp (x : Reg) : (s.advanceIndex x).sp = s.sp := by
  unfold State.advanceIndex; split <;> rfl
@[simp] theorem State.advanceIndex_dt (x : Reg) : (s.advanceIndex x).dt = s.dt := by
  unfold State.advanceIndex; split <;> rfl
@[simp] theorem State.advanceIndex_st (x : Reg) : (s.advanceIndex x).st = s.st := by
  unfold State.advanceIndex; split <;> rfl
@[simp] theorem State.advanceIndex_keys (x : Reg) : (s.advanceIndex x).keys = s.keys := by
  unfold State.advanceIndex; split <;> rfl
@[simp] theorem State.advanceIndex_disp (x : Reg) : (s.advanceIndex x).disp = s.disp := by
  unfold State.advanceIndex; split <;> rfl
@[simp] theorem State.advanceIndex_quirks (x : Reg) : (s.advanceIndex x).quirks = s.quirks := by
  unfold State.advanceIndex; split <;> rfl
@[simp] theorem State.advanceIndex_waitKey (x : Reg) : (s.advanceIndex x).waitKey = s.waitKey := by
  unfold State.advanceIndex; split <;> rfl
@[simp] theorem State.advanceIndex_drawn (x : Reg) : (s.advanceIndex x).drawn = s.drawn := by
  unfold State.advanceIndex; split <;> rfl
@[simp] theorem State.advanceIndex_fault (x : Reg) : (s.advanceIndex x).fault = s.fault := by
  unfold State.advanceIndex; split <;> rfl
@[simp] theorem State.advanceIndex_started (x : Reg) : (s.advanceIndex x).started = s.started := by
  unfold State.advanceIndex; split <;> rfl
@[simp] theorem State.advanceIndex_mem (x : Reg) : (s.advanceIndex x).mem = s.mem := by
  unfold State.advanceIndex; split <;> rfl
@[simp] theorem State.advanceIndex_rndArg (x : Reg) : (s.advanceIndex x).rndArg = s.rndArg := by
  unfold State.advanceIndex; split <;> rfl
@[simp] theorem State.advanceIndex_rndCount (x : Reg) : (s.advanceIndex x).rndCount = s.rndCount := by
  unfold State.advanceIndex; split <;> rfl
@[simp] theorem State.advanceIndex_reg (x : Reg) (q : Reg) : (s.advanceIndex x).reg q = s.reg q := by
  unfold State.advanceIndex; split <;> rfl

@[simp] theorem State.skipIf_pc (c : Bool) : (s.skipIf c).pc = if c then s.pc + 2 else s.pc := by
  unfold State.skipIf; split <;> rfl

/-! ### The two fields that hold the random byte (log 3) -/

theorem State.rndByte_named (b : Byte) (h : s.rndArg = some b) : s.rndByte = b := by
  simp [State.rndByte, h]

end Sys2Proof.Machine
end

