-- ==== Sys2Proof/Laws/Ops.lean ====
section
/-! SUPPORT. One lemma per shared operation that says everything it can do: stack, key choice, skips, data range, block
moves, and the drawing of a sprite. Later proofs cite these and do not unfold the operations. -/

namespace Sys2Proof.Machine

variable (s : State)

/-! ### The return stack (R26, R27) -/

/-- A push succeeds exactly when the stack is not full (R27, R102). -/
theorem State.push_cases (a : Word) :
    (∃ h : s.sp.val < 64, s.push a =
        some ((s.setStack (s.stack.set s.sp.val a h)).setSp ⟨s.sp.val + 1, by omega⟩)) ∨
      (s.sp.val = 64 ∧ s.push a = none) := by
  unfold State.push
  by_cases h : s.sp.val < 64
  · exact .inl ⟨h, by rw [dif_pos h]⟩
  · exact .inr ⟨by have := s.sp.isLt; omega, by rw [dif_neg h]⟩

/-- A pop succeeds exactly when the stack is not empty (R27, R100); the entry stays in the array (R26). -/
theorem State.pop_cases :
    (∃ h : 0 < s.sp.val, s.pop =
        some (s.stack.get ⟨s.sp.val - 1, by omega⟩, s.setSp ⟨s.sp.val - 1, by omega⟩)) ∨
      (s.sp.val = 0 ∧ s.pop = none) := by
  unfold State.pop
  by_cases h : 0 < s.sp.val
  · exact .inl ⟨h, by rw [dif_pos h]⟩
  · exact .inr ⟨by omega, by rw [dif_neg h]⟩

/-! ### Raising a fault (R208) -/

/-- A fault changes `pc` and `fault` and nothing else. -/
theorem raiseFault_eq (k : FaultKind) (i : Instr) :
    raiseFault k i s = .next (s.latchFault k (s.pc - 2) (encode i)) := rfl

/-- From inside the instruction at `pc0`, the fault leaves `pc = pc0` and records `pc0` (R208). -/
theorem raiseFault_at (k : FaultKind) (i : Instr) (pc0 : Word) (h : s.pc = pc0 + 2) :
    raiseFault k i s = .next (s.latchFault k pc0 (encode i)) := by
  rw [raiseFault_eq, h, BitVec.add_sub_cancel]

/-! ### Keys (R170, R172) -/

/-- A register names a key exactly when it is at most 15. -/
theorem keyOf_cases (b : Byte) :
    (∃ h : b.toNat < 16, keyOf b = some ⟨b.toNat, h⟩) ∨ (15 < b.toNat ∧ keyOf b = none) := by
  unfold keyOf
  by_cases h : b.toNat < 16
  · exact .inl ⟨h, by rw [dif_pos h]⟩
  · exact .inr ⟨by omega, by rw [dif_neg h]⟩

/-- No key is lowest exactly when none is down. -/
theorem State.lowestPressed_none : s.lowestPressed = none ↔ ∀ k, s.keyDown k = false := by
  simp [State.lowestPressed, List.find?_eq_none]

/-- The key chosen is down and every lower one is up (R172, D11). -/
theorem State.lowestPressed_some {k : Fin 16} (h : s.lowestPressed = some k) :
    s.keyDown k = true ∧ ∀ j : Fin 16, j < k → s.keyDown j = false := by
  unfold State.lowestPressed at h
  rw [List.find?_eq_some_iff_append] at h
  obtain ⟨hk, as, bs, hl, has⟩ := h
  refine ⟨hk, fun j hj => ?_⟩
  have hsorted : List.Pairwise (· < ·) (List.finRange 16) := by decide
  rw [hl] at hsorted
  have hmem : j ∈ as ++ k :: bs := hl ▸ List.mem_finRange j
  rcases List.mem_append.1 hmem with hm | hm
  · simpa using has j hm
  · rw [List.pairwise_append, List.pairwise_cons] at hsorted
    rcases List.mem_cons.1 hm with rfl | hm
    · exact absurd hj (lt_irrefl _)
    · exact absurd (lt_trans hj (hsorted.2.1.1 j hm)) (lt_irrefl _)

/-- A key that is down with every lower one up is the key chosen (R172, D11). -/
theorem State.lowestPressed_eq {k : Fin 16} (h : s.keyDown k = true) (hl : ∀ j, j < k → s.keyDown j = false) :
    s.lowestPressed = some k := by
  cases e : s.lowestPressed with
  | none => rw [State.lowestPressed_none] at e; rw [e k] at h; cases h
  | some j =>
    obtain ⟨a, b⟩ := State.lowestPressed_some s e
    rcases lt_trichotomy j k with hh | hh | hh
    · rw [hl j hh] at a; cases a
    · rw [hh]
    · rw [b k hh] at h; cases h

@[simp] theorem State.setPc_keyDown (a : Word) (k : Fin 16) : (s.setPc a).keyDown k = s.keyDown k := rfl

@[simp] theorem State.setPc_lowestPressed (a : Word) : (s.setPc a).lowestPressed = s.lowestPressed := rfl

/-- Everything a key wait can do (R172): stall; choose the lowest key and stall; or complete with a key's number. -/
theorem keyWait_cases (release : Bool) (x : Reg) :
    (keyWait release x s = s.stall ∧
      ((∀ k, s.keyDown k = false) ∨ release = true ∧ ∃ k, s.waitKey = some k ∧ s.keyDown k = true)) ∨
    (∃ k, release = true ∧ s.waitKey = none ∧ s.lowestPressed = some k ∧
      keyWait release x s = (s.setWaitKey (some k)).stall) ∨
    (∃ k, release = true ∧ s.waitKey = some k ∧ s.keyDown k = false ∧
      keyWait release x s = (s.setReg x (BitVec.ofNat 8 k.val)).setWaitKey none) ∨
    (∃ k, release = false ∧ s.lowestPressed = some k ∧ keyWait release x s = s.setReg x (BitVec.ofNat 8 k.val)) := by
  unfold keyWait
  cases release with
  | false =>
    unfold keyWaitPress
    cases hl : s.lowestPressed with
    | none => exact .inl ⟨by simp, .inl ((s.lowestPressed_none).1 hl)⟩
    | some k => exact .inr (.inr (.inr ⟨k, rfl, rfl, by simp⟩))
  | true =>
    unfold keyWaitRelease
    cases hw : s.waitKey with
    | none =>
      cases hl : s.lowestPressed with
      | none => exact .inl ⟨by simp, .inl ((s.lowestPressed_none).1 hl)⟩
      | some k => exact .inr (.inl ⟨k, rfl, rfl, rfl, by simp⟩)
    | some k =>
      cases hk : s.keyDown k with
      | true => exact .inl ⟨by simp [hk], .inr ⟨rfl, k, rfl, hk⟩⟩
      | false => exact .inr (.inr (.inl ⟨k, rfl, rfl, hk, by simp [hk]⟩))

@[simp] theorem keyWait_index (release : Bool) (x : Reg) : (keyWait release x s).index = s.index := by
  rcases keyWait_cases s release x with ⟨e, -⟩ | ⟨k, -, -, -, e⟩ | ⟨k, -, -, -, e⟩ | ⟨k, -, -, e⟩ <;> rw [e] <;> rfl

@[simp] theorem keyWait_stack (release : Bool) (x : Reg) : (keyWait release x s).stack = s.stack := by
  rcases keyWait_cases s release x with ⟨e, -⟩ | ⟨k, -, -, -, e⟩ | ⟨k, -, -, -, e⟩ | ⟨k, -, -, e⟩ <;> rw [e] <;> rfl

@[simp] theorem keyWait_sp (release : Bool) (x : Reg) : (keyWait release x s).sp = s.sp := by
  rcases keyWait_cases s release x with ⟨e, -⟩ | ⟨k, -, -, -, e⟩ | ⟨k, -, -, -, e⟩ | ⟨k, -, -, e⟩ <;> rw [e] <;> rfl

@[simp] theorem keyWait_dt (release : Bool) (x : Reg) : (keyWait release x s).dt = s.dt := by
  rcases keyWait_cases s release x with ⟨e, -⟩ | ⟨k, -, -, -, e⟩ | ⟨k, -, -, -, e⟩ | ⟨k, -, -, e⟩ <;> rw [e] <;> rfl

@[simp] theorem keyWait_st (release : Bool) (x : Reg) : (keyWait release x s).st = s.st := by
  rcases keyWait_cases s release x with ⟨e, -⟩ | ⟨k, -, -, -, e⟩ | ⟨k, -, -, -, e⟩ | ⟨k, -, -, e⟩ <;> rw [e] <;> rfl

@[simp] theorem keyWait_keys (release : Bool) (x : Reg) : (keyWait release x s).keys = s.keys := by
  rcases keyWait_cases s release x with ⟨e, -⟩ | ⟨k, -, -, -, e⟩ | ⟨k, -, -, -, e⟩ | ⟨k, -, -, e⟩ <;> rw [e] <;> rfl

@[simp] theorem keyWait_disp (release : Bool) (x : Reg) : (keyWait release x s).disp = s.disp := by
  rcases keyWait_cases s release x with ⟨e, -⟩ | ⟨k, -, -, -, e⟩ | ⟨k, -, -, -, e⟩ | ⟨k, -, -, e⟩ <;> rw [e] <;> rfl

@[simp] theorem keyWait_quirks (release : Bool) (x : Reg) : (keyWait release x s).quirks = s.quirks := by
  rcases keyWait_cases s release x with ⟨e, -⟩ | ⟨k, -, -, -, e⟩ | ⟨k, -, -, -, e⟩ | ⟨k, -, -, e⟩ <;> rw [e] <;> rfl

@[simp] theorem keyWait_drawn (release : Bool) (x : Reg) : (keyWait release x s).drawn = s.drawn := by
  rcases keyWait_cases s release x with ⟨e, -⟩ | ⟨k, -, -, -, e⟩ | ⟨k, -, -, -, e⟩ | ⟨k, -, -, e⟩ <;> rw [e] <;> rfl

@[simp] theorem keyWait_fault (release : Bool) (x : Reg) : (keyWait release x s).fault = s.fault := by
  rcases keyWait_cases s release x with ⟨e, -⟩ | ⟨k, -, -, -, e⟩ | ⟨k, -, -, -, e⟩ | ⟨k, -, -, e⟩ <;> rw [e] <;> rfl

@[simp] theorem keyWait_started (release : Bool) (x : Reg) : (keyWait release x s).started = s.started := by
  rcases keyWait_cases s release x with ⟨e, -⟩ | ⟨k, -, -, -, e⟩ | ⟨k, -, -, -, e⟩ | ⟨k, -, -, e⟩ <;> rw [e] <;> rfl

@[simp] theorem keyWait_mem (release : Bool) (x : Reg) : (keyWait release x s).mem = s.mem := by
  rcases keyWait_cases s release x with ⟨e, -⟩ | ⟨k, -, -, -, e⟩ | ⟨k, -, -, -, e⟩ | ⟨k, -, -, e⟩ <;> rw [e] <;> rfl

@[simp] theorem keyWait_rndArg (release : Bool) (x : Reg) : (keyWait release x s).rndArg = s.rndArg := by
  rcases keyWait_cases s release x with ⟨e, -⟩ | ⟨k, -, -, -, e⟩ | ⟨k, -, -, -, e⟩ | ⟨k, -, -, e⟩ <;> rw [e] <;> rfl

@[simp] theorem keyWait_rndCount (release : Bool) (x : Reg) : (keyWait release x s).rndCount = s.rndCount := by
  rcases keyWait_cases s release x with ⟨e, -⟩ | ⟨k, -, -, -, e⟩ | ⟨k, -, -, -, e⟩ | ⟨k, -, -, e⟩ <;> rw [e] <;> rfl

/-! ### Data addresses and block moves (R140, R145, R146) -/

theorem State.dataInRange_iff (last : Nat) : s.dataInRange last = true ↔ s.index.toNat + last ≤ 0xFFF :=
  decide_eq_true_iff

theorem State.dataInRange_false (last : Nat) : s.dataInRange last = false ↔ 0xFFF < s.index.toNat + last := by
  rw [State.dataInRange, decide_eq_false_iff_not, Nat.not_le]; rfl

theorem State.regBlock_length (x : Reg) : (s.regBlock x).length = x.val + 1 := by
  simp only [State.regBlock, List.length_take, Vector.length_toList]; omega

theorem State.regBlock_get (x : Reg) (k : Nat) (h : k < (s.regBlock x).length) :
    (s.regBlock x)[k] = s.reg ⟨k, by have := s.regBlock_length x; omega⟩ := by
  simp [State.regBlock, State.reg, Vector.get]

/-- With the quirk, `I` moves past the block (R145, R146). -/
theorem State.advanceIndex_on (x : Reg) (h : s.quirks.memAdvancesI = true) :
    s.advanceIndex x = s.setIndex (s.index + BitVec.ofNat 16 (x.val + 1)) := if_pos h

/-- Without the quirk, `I` stays (R145, R146). -/
theorem State.advanceIndex_off (x : Reg) (h : s.quirks.memAdvancesI = false) : s.advanceIndex x = s :=
  if_neg (by simp [h])

@[simp] theorem State.loadRegBlock_index (x : Reg) : (s.loadRegBlock x).index = s.index := rfl
@[simp] theorem State.loadRegBlock_pc (x : Reg) : (s.loadRegBlock x).pc = s.pc := rfl
@[simp] theorem State.loadRegBlock_stack (x : Reg) : (s.loadRegBlock x).stack = s.stack := rfl
@[simp] theorem State.loadRegBlock_sp (x : Reg) : (s.loadRegBlock x).sp = s.sp := rfl
@[simp] theorem State.loadRegBlock_dt (x : Reg) : (s.loadRegBlock x).dt = s.dt := rfl
@[simp] theorem State.loadRegBlock_st (x : Reg) : (s.loadRegBlock x).st = s.st := rfl
@[simp] theorem State.loadRegBlock_keys (x : Reg) : (s.loadRegBlock x).keys = s.keys := rfl
@[simp] theorem State.loadRegBlock_disp (x : Reg) : (s.loadRegBlock x).disp = s.disp := rfl
@[simp] theorem State.loadRegBlock_quirks (x : Reg) : (s.loadRegBlock x).quirks = s.quirks := rfl
@[simp] theorem State.loadRegBlock_waitKey (x : Reg) : (s.loadRegBlock x).waitKey = s.waitKey := rfl
@[simp] theorem State.loadRegBlock_drawn (x : Reg) : (s.loadRegBlock x).drawn = s.drawn := rfl
@[simp] theorem State.loadRegBlock_fault (x : Reg) : (s.loadRegBlock x).fault = s.fault := rfl
@[simp] theorem State.loadRegBlock_started (x : Reg) : (s.loadRegBlock x).started = s.started := rfl
@[simp] theorem State.loadRegBlock_mem (x : Reg) : (s.loadRegBlock x).mem = s.mem := rfl
@[simp] theorem State.loadRegBlock_rndArg (x : Reg) : (s.loadRegBlock x).rndArg = s.rndArg := rfl
@[simp] theorem State.loadRegBlock_rndCount (x : Reg) : (s.loadRegBlock x).rndCount = s.rndCount := rfl

/-- `V[0]` to `V[x]` come from memory, the others stay (R146). -/
theorem State.loadRegBlock_reg (x r : Reg) :
    (s.loadRegBlock x).reg r = if r ≤ x then s.mem.read (s.index.toNat + r.val) else s.reg r := by
  simp [State.loadRegBlock, State.reg, State.dataAddr, Vector.get_eq_getElem]

/-! ### Drawing (R161) -/

/-- The pixel written is the pixel read, and no other pixel changes. -/
theorem Display.setPixel_pixel (d : Display) (y py : Fin 32) (x px : Fin 64) (b : Bool) :
    (d.setPixel y x b).pixel py px = if py = y ∧ px = x then b else d.pixel py px := by
  simp only [Display.pixel, Display.setPixel, Vector.get_eq_getElem, Vector.getElem_set]
  by_cases hy : y.val = py.val
  · have : y = py := Fin.ext hy
    subst this
    by_cases hx : x.val = px.val
    · have : x = px := Fin.ext hx
      subst this; simp
    · have : px ≠ x := fun h => hx (by rw [h])
      simp [hx, this]
  · have : py ≠ y := fun h => hy (by rw [h])
    simp [hy, this]

theorem Display.clear_pixel (y : Fin 32) (x : Fin 64) : Display.clear.pixel y x = false := by
  simp [Display.clear, Display.pixel, Vector.get_eq_getElem]

/-- Two displays with the same pixels are the same. -/
theorem Display.ext_pixel {d e : Display} (h : ∀ y x, d.pixel y x = e.pixel y x) : d = e := by
  refine Vector.ext fun y hy => Vector.ext fun x hx => ?_
  simpa [Display.pixel, Vector.get_eq_getElem] using h ⟨y, hy⟩ ⟨x, hx⟩

/-- What a toggle does: the pixel is inverted, and it is a hit when the pixel was on. -/
theorem Drawing.toggle_pixel (d : Drawing) (y py : Fin 32) (x px : Fin 64) :
    (d.toggle y x).disp.pixel py px = ((d.disp.pixel py px) ^^ decide (py = y ∧ px = x)) := by
  unfold Drawing.toggle
  split <;> rename_i h <;> simp only [Display.setPixel_pixel] <;> by_cases hp : py = y ∧ px = x
  · obtain ⟨rfl, rfl⟩ := hp; simp [h]
  · simp [hp]
  · obtain ⟨rfl, rfl⟩ := hp; simp [h]
  · simp [hp]

theorem Drawing.toggle_hit (d : Drawing) (y : Fin 32) (x : Fin 64) :
    (d.toggle y x).hit = (d.hit || d.disp.pixel y x) := by
  unfold Drawing.toggle
  split <;> rename_i h <;> simp [h]

/-- The bit of a sprite byte that falls on display column `px`, where the columns drawn are `lo` to 7 (R161). -/
def byteOn (x0 lo : Nat) (b : Byte) (px : Fin 64) : Bool :=
  decide (x0 + lo ≤ px.val ∧ px.val < x0 + 8) && b.getLsbD (7 - (px.val - x0))

theorem byteOn_succ (x0 lo : Nat) (b : Byte) (px : Fin 64) (hlo : lo < 8) :
    byteOn x0 lo b px = (decide (px.val = x0 + lo) && b.getLsbD (7 - lo) || byteOn x0 (lo + 1) b px) := by
  unfold byteOn
  by_cases h : px.val = x0 + lo
  · have h1 : 7 - (px.val - x0) = 7 - lo := by omega
    have h2 : x0 + lo ≤ px.val ∧ px.val < x0 + 8 := by omega
    have h3 : ¬(x0 + (lo + 1) ≤ px.val) := by omega
    rw [h1]; simp [h, hlo]
  · have h2 : (x0 + lo ≤ px.val ∧ px.val < x0 + 8) ↔ (x0 + (lo + 1) ≤ px.val ∧ px.val < x0 + 8) := by omega
    simp [h, h2]

/-- The columns of one byte from `lo` on: each covered pixel of the row is inverted, and a lit one is a hit (R161). -/
theorem Drawing.byte_spec (n : Nat) : ∀ (lo : Nat), lo + n = 8 → ∀ (d : Drawing) (y : Fin 32) (x0 : Nat) (b : Byte),
    (∀ py px, (d.byte y x0 b (List.range' lo n)).disp.pixel py px =
      ((d.disp.pixel py px) ^^ (decide (py = y) && byteOn x0 lo b px))) ∧
    ((d.byte y x0 b (List.range' lo n)).hit = true ↔
      d.hit = true ∨ ∃ px, byteOn x0 lo b px = true ∧ d.disp.pixel y px = true) := by
  induction n with
  | zero =>
    intro lo hlo d y x0 b
    have hlo8 : lo = 8 := by omega
    subst hlo8
    have hoff : ∀ px, byteOn x0 8 b px = false := fun px => by
      unfold byteOn; simp
    simp [Drawing.byte, hoff]
  | succ n ih =>
    intro lo hlo d y x0 b
    have hlt : lo < 8 := by omega
    rw [List.range'_succ]
    unfold Drawing.byte
    split
    · rename_i hx
      have hxp : ∀ px : Fin 64, (px.val = x0 + lo) = (px = ⟨x0 + lo, hx⟩) := fun px => by simp [Fin.ext_iff]
      by_cases hb : b.getLsbD (7 - lo) = true
      · obtain ⟨h1, h2⟩ := ih (lo + 1) (by omega) (d.toggle y ⟨x0 + lo, hx⟩) y x0 b
        have hself : byteOn x0 (lo + 1) b ⟨x0 + lo, hx⟩ = false := by unfold byteOn; simp
        simp only [hb, if_true]
        refine ⟨fun py px => ?_, ?_⟩
        · rw [h1, Drawing.toggle_pixel, byteOn_succ x0 lo b px hlt, hb]
          by_cases hpx : px = ⟨x0 + lo, hx⟩
          · subst hpx; rw [hself]; simp
          · simp [hxp, hpx]
        · rw [h2, Drawing.toggle_hit]
          constructor
          · rintro (h | ⟨px, hp, hq⟩)
            · rcases Bool.or_eq_true _ _ ▸ h with h | h
              · exact .inl h
              · exact .inr ⟨⟨x0 + lo, hx⟩, by rw [byteOn_succ x0 lo b _ hlt, hb]; simp, h⟩
            · rw [Drawing.toggle_pixel] at hq
              by_cases hpx : px = ⟨x0 + lo, hx⟩
              · subst hpx; rw [hself] at hp; cases hp
              · exact .inr ⟨px, by rw [byteOn_succ x0 lo b px hlt, hp]; simp, by simpa [hpx] using hq⟩
          · rintro (h | ⟨px, hp, hq⟩)
            · exact .inl (by simp [h])
            · by_cases hpx : px = ⟨x0 + lo, hx⟩
              · subst hpx; exact .inl (by simp [hq])
              · rw [byteOn_succ x0 lo b px hlt] at hp
                refine .inr ⟨px, by simpa [hxp, hpx] using hp, ?_⟩
                rw [Drawing.toggle_pixel]; simp [hpx, hq]
      · obtain ⟨h1, h2⟩ := ih (lo + 1) (by omega) d y x0 b
        have hsame : ∀ px, byteOn x0 lo b px = byteOn x0 (lo + 1) b px := fun px => by
          rw [byteOn_succ x0 lo b px hlt]; simp [hb]
        simp only [hb, Bool.false_eq_true, if_false, hsame]
        exact ⟨h1, h2⟩
    · rename_i hx
      have hoff : ∀ px : Fin 64, byteOn x0 lo b px = false := fun px => by
        unfold byteOn; simp; have := px.isLt; omega
      simp [hoff]

/-- One whole sprite byte. -/
theorem Drawing.byte_eight (d : Drawing) (y : Fin 32) (x0 : Nat) (b : Byte) :
    (∀ py px, (d.byte y x0 b (List.range 8)).disp.pixel py px =
      ((d.disp.pixel py px) ^^ (decide (py = y) && byteOn x0 0 b px))) ∧
    ((d.byte y x0 b (List.range 8)).hit = true ↔
      d.hit = true ∨ ∃ px, byteOn x0 0 b px = true ∧ d.disp.pixel y px = true) := by
  rw [List.range_eq_range']; exact Drawing.byte_spec 8 0 rfl d y x0 b

/-- The bit of a sprite that falls on a pixel, the first byte drawn in row `y0` (R161). -/
def rowsOn (y0 x0 : Nat) (sprite : List Byte) (py : Fin 32) (px : Fin 64) : Bool :=
  decide (y0 ≤ py.val ∧ py.val < y0 + sprite.length) && byteOn x0 0 (sprite.getD (py.val - y0) 0) px

theorem rowsOn_cons (y0 x0 : Nat) (b : Byte) (rest : List Byte) (py : Fin 32) (px : Fin 64) :
    rowsOn y0 x0 (b :: rest) py px = (decide (py.val = y0) && byteOn x0 0 b px || rowsOn (y0 + 1) x0 rest py px) := by
  unfold rowsOn
  by_cases h : py.val = y0
  · simp [h]
  · by_cases hr : y0 + 1 ≤ py.val
    · obtain ⟨k, hk⟩ : ∃ k, py.val - y0 = k + 1 := ⟨py.val - y0 - 1, by omega⟩
      have hk' : py.val - (y0 + 1) = k := by omega
      have hc : (y0 ≤ py.val ∧ py.val < y0 + (b :: rest).length) ↔
          (y0 + 1 ≤ py.val ∧ py.val < y0 + 1 + rest.length) := by simp only [List.length_cons]; omega
      rw [hk, hk']; simp only [hc]; simp [h]
    · have h1 : ¬(y0 ≤ py.val) := by omega
      simp [h, hr, h1]

/-- Drawing a sprite: every covered pixel is inverted, every other is as before, and there is a hit exactly when some
covered pixel was on (R161). -/
theorem Drawing.rows_spec (sprite : List Byte) : ∀ (d : Drawing) (y0 x0 : Nat),
    (∀ py px, (d.rows y0 x0 sprite).disp.pixel py px = ((d.disp.pixel py px) ^^ rowsOn y0 x0 sprite py px)) ∧
    ((d.rows y0 x0 sprite).hit = true ↔
      d.hit = true ∨ ∃ py px, rowsOn y0 x0 sprite py px = true ∧ d.disp.pixel py px = true) := by
  induction sprite with
  | nil =>
    intro d y0 x0
    have hoff : ∀ py px, rowsOn y0 x0 [] py px = false := fun py px => by unfold rowsOn; simp
    simp [Drawing.rows, hoff]
  | cons b rest ih =>
    intro d y0 x0
    unfold Drawing.rows
    split
    · rename_i hy
      have hyp : ∀ py : Fin 32, (py.val = y0) = (py = ⟨y0, hy⟩) := fun py => by simp [Fin.ext_iff]
      obtain ⟨g1, g2⟩ := Drawing.byte_eight d ⟨y0, hy⟩ x0 b
      obtain ⟨h1, h2⟩ := ih (d.byte ⟨y0, hy⟩ x0 b (List.range 8)) (y0 + 1) x0
      have hbelow : ∀ px, rowsOn (y0 + 1) x0 rest ⟨y0, hy⟩ px = false := fun px => by unfold rowsOn; simp
      refine ⟨fun py px => ?_, ?_⟩
      · rw [h1, g1, rowsOn_cons]
        by_cases hpy : py = ⟨y0, hy⟩
        · subst hpy; rw [hbelow]; simp
        · simp [hyp, hpy]
      · rw [h2, g2]
        constructor
        · rintro ((h | ⟨px, hp, hq⟩) | ⟨py, px, hp, hq⟩)
          · exact .inl h
          · exact .inr ⟨⟨y0, hy⟩, px, by rw [rowsOn_cons, hp]; simp, hq⟩
          · by_cases hpy : py = ⟨y0, hy⟩
            · subst hpy; rw [hbelow] at hp; cases hp
            · rw [g1] at hq
              exact .inr ⟨py, px, by rw [rowsOn_cons, hp]; simp, by simpa [hpy] using hq⟩
        · rintro (h | ⟨py, px, hp, hq⟩)
          · exact .inl (.inl h)
          · rw [rowsOn_cons] at hp
            by_cases hpy : py = ⟨y0, hy⟩
            · subst hpy; rw [hbelow] at hp; exact .inl (.inr ⟨px, by simpa using hp, hq⟩)
            · refine .inr ⟨py, px, by simpa [hyp, hpy] using hp, ?_⟩
              rw [g1]; simp [hpy, hq]
    · rename_i hy
      have hoff : ∀ (py : Fin 32) px, rowsOn y0 x0 (b :: rest) py px = false := fun py px => by
        unfold rowsOn; simp; have := py.isLt; omega
      simp [hoff]

theorem Memory.readBytes_length (m : Memory) (a n : Nat) : (m.readBytes a n).length = n := by
  simp [Memory.readBytes]

theorem Memory.readBytes_getD (m : Memory) (a n k : Nat) (h : k < n) : (m.readBytes a n).getD k 0 = m.read (a + k) := by
  simp [Memory.readBytes, List.getD, h]

end Sys2Proof.Machine
end

