-- ==== Sys2Proof/Laws/PerInstr.lean ====
section
/-! SUPPORT. The family EncodingMatchesRow: the word of every instruction matches its row of the opcode map
(spec/30_encoding.md R74, R75). -/

namespace Sys2Proof.Laws.EncodingMatchesRow

/-- The instruction's word, under its row's mask, is its row's pattern. -/
def Statement (i : Sys2Proof.Instr) : Prop := (rowOf i).matchesWord (encode i) = true

theorem cls : Statement .cls := by unfold Statement; decide

theorem ret : Statement .ret := by unfold Statement; decide

theorem jp (nnn : BitVec 12) : Statement (.jp nnn) := by
  rw [Statement, OpcodeRow.matchesWord, beq_iff_eq]; exact encodeA_and_F000 _ nnn

theorem call (nnn : BitVec 12) : Statement (.call nnn) := by
  rw [Statement, OpcodeRow.matchesWord, beq_iff_eq]; exact encodeA_and_F000 _ nnn

theorem seVxNn (x : Reg) (nn : Byte) : Statement (.seVxNn x nn) := by
  rw [Statement, OpcodeRow.matchesWord, beq_iff_eq]; exact encodeXI_and_F000 _ x nn

theorem sneVxNn (x : Reg) (nn : Byte) : Statement (.sneVxNn x nn) := by
  rw [Statement, OpcodeRow.matchesWord, beq_iff_eq]; exact encodeXI_and_F000 _ x nn

theorem seVxVy (x y : Reg) : Statement (.seVxVy x y) := by
  rw [Statement, OpcodeRow.matchesWord, beq_iff_eq]; exact encodeXY_and_F00F _ x y _

theorem ldVxNn (x : Reg) (nn : Byte) : Statement (.ldVxNn x nn) := by
  rw [Statement, OpcodeRow.matchesWord, beq_iff_eq]; exact encodeXI_and_F000 _ x nn

theorem addVxNn (x : Reg) (nn : Byte) : Statement (.addVxNn x nn) := by
  rw [Statement, OpcodeRow.matchesWord, beq_iff_eq]; exact encodeXI_and_F000 _ x nn

theorem ldVxVy (x y : Reg) : Statement (.ldVxVy x y) := by
  rw [Statement, OpcodeRow.matchesWord, beq_iff_eq]; exact encodeXY_and_F00F _ x y _

theorem or (x y : Reg) : Statement (.or x y) := by
  rw [Statement, OpcodeRow.matchesWord, beq_iff_eq]; exact encodeXY_and_F00F _ x y _

theorem and (x y : Reg) : Statement (.and x y) := by
  rw [Statement, OpcodeRow.matchesWord, beq_iff_eq]; exact encodeXY_and_F00F _ x y _

theorem xor (x y : Reg) : Statement (.xor x y) := by
  rw [Statement, OpcodeRow.matchesWord, beq_iff_eq]; exact encodeXY_and_F00F _ x y _

theorem addVxVy (x y : Reg) : Statement (.addVxVy x y) := by
  rw [Statement, OpcodeRow.matchesWord, beq_iff_eq]; exact encodeXY_and_F00F _ x y _

theorem sub (x y : Reg) : Statement (.sub x y) := by
  rw [Statement, OpcodeRow.matchesWord, beq_iff_eq]; exact encodeXY_and_F00F _ x y _

theorem shr (x y : Reg) : Statement (.shr x y) := by
  rw [Statement, OpcodeRow.matchesWord, beq_iff_eq]; exact encodeXY_and_F00F _ x y _

theorem subn (x y : Reg) : Statement (.subn x y) := by
  rw [Statement, OpcodeRow.matchesWord, beq_iff_eq]; exact encodeXY_and_F00F _ x y _

theorem shl (x y : Reg) : Statement (.shl x y) := by
  rw [Statement, OpcodeRow.matchesWord, beq_iff_eq]; exact encodeXY_and_F00F _ x y _

theorem sneVxVy (x y : Reg) : Statement (.sneVxVy x y) := by
  rw [Statement, OpcodeRow.matchesWord, beq_iff_eq]; exact encodeXY_and_F00F _ x y _

theorem ldI (nnn : BitVec 12) : Statement (.ldI nnn) := by
  rw [Statement, OpcodeRow.matchesWord, beq_iff_eq]; exact encodeA_and_F000 _ nnn

theorem jpOff (nnn : BitVec 12) : Statement (.jpOff nnn) := by
  rw [Statement, OpcodeRow.matchesWord, beq_iff_eq]; exact encodeA_and_F000 _ nnn

theorem rnd (x : Reg) (nn : Byte) : Statement (.rnd x nn) := by
  rw [Statement, OpcodeRow.matchesWord, beq_iff_eq]; exact encodeXI_and_F000 _ x nn

theorem drw (x y : Reg) (n : Nat) : Statement (.drw x y n) := by
  rw [Statement, OpcodeRow.matchesWord, beq_iff_eq]; exact encodeXY_and_F000 _ x y _

theorem skp (x : Reg) : Statement (.skp x) := by
  rw [Statement, OpcodeRow.matchesWord, beq_iff_eq]; exact encodeXI_and_F0FF _ x _

theorem sknp (x : Reg) : Statement (.sknp x) := by
  rw [Statement, OpcodeRow.matchesWord, beq_iff_eq]; exact encodeXI_and_F0FF _ x _

theorem ldVxDt (x : Reg) : Statement (.ldVxDt x) := by
  rw [Statement, OpcodeRow.matchesWord, beq_iff_eq]; exact encodeXI_and_F0FF _ x _

theorem ldVxK (x : Reg) : Statement (.ldVxK x) := by
  rw [Statement, OpcodeRow.matchesWord, beq_iff_eq]; exact encodeXI_and_F0FF _ x _

theorem ldDtVx (x : Reg) : Statement (.ldDtVx x) := by
  rw [Statement, OpcodeRow.matchesWord, beq_iff_eq]; exact encodeXI_and_F0FF _ x _

theorem ldStVx (x : Reg) : Statement (.ldStVx x) := by
  rw [Statement, OpcodeRow.matchesWord, beq_iff_eq]; exact encodeXI_and_F0FF _ x _

theorem addI (x : Reg) : Statement (.addI x) := by
  rw [Statement, OpcodeRow.matchesWord, beq_iff_eq]; exact encodeXI_and_F0FF _ x _

theorem ldF (x : Reg) : Statement (.ldF x) := by
  rw [Statement, OpcodeRow.matchesWord, beq_iff_eq]; exact encodeXI_and_F0FF _ x _

theorem ldB (x : Reg) : Statement (.ldB x) := by
  rw [Statement, OpcodeRow.matchesWord, beq_iff_eq]; exact encodeXI_and_F0FF _ x _

theorem stRegs (x : Reg) : Statement (.stRegs x) := by
  rw [Statement, OpcodeRow.matchesWord, beq_iff_eq]; exact encodeXI_and_F0FF _ x _

theorem ldRegs (x : Reg) : Statement (.ldRegs x) := by
  rw [Statement, OpcodeRow.matchesWord, beq_iff_eq]; exact encodeXI_and_F0FF _ x _

end Sys2Proof.Laws.EncodingMatchesRow
end

