-- ==== Sys2Proof/Laws/Step.lean ====
section
/-! SUPPORT. What one step can do (spec/30_encoding.md R70), and for each instruction whether it raises its fault or completes
(spec/60_exceptions.md R200, R210): the two lemmas every later proof about a step goes through. -/

namespace Sys2Proof.Machine

variable (s : State)

@[simp] theorem State.start_eq : s.start = s.setStarted true := rfl

@[simp] theorem State.advance_eq : s.advance = s.setPc (s.pc + 2) := rfl

theorem State.fetchWord_eq : s.fetchWord = s.mem.read s.pc.toNat ++ s.mem.read (s.pc.toNat + 1) := rfl

theorem State.fetchable_iff : s.fetchable = true ↔ s.pc.toNat % 2 = 0 ∧ s.pc.toNat ≤ 0xFFE := by
  simp [State.fetchable]

theorem State.fetchable_false : s.fetchable = false ↔ s.pc.toNat % 2 = 1 ∨ s.pc.toNat > 0xFFE := by
  rw [← Bool.not_eq_true, State.fetchable_iff]; omega

/-- The four ways a step goes: halted, no fetch, no instruction, or the instruction (R70). -/
theorem step_cases :
    (s.fault ≠ none ∧ step s = .next (s.setStarted true)) ∨
    (s.fault = none ∧ s.fetchable = false ∧
      step s = .next ((s.setStarted true).latchFault .badProgramCounter s.pc 0x0000)) ∨
    (s.fault = none ∧ s.fetchable = true ∧ decodeWord s.fetchWord = none ∧
      step s = .next ((s.setStarted true).latchFault .unimplementedOpcode s.pc s.fetchWord)) ∨
    (s.fault = none ∧ s.fetchable = true ∧ ∃ i, decodeWord s.fetchWord = some i ∧
      step s = exec i ((s.setStarted true).setPc (s.pc + 2))) := by
  unfold step runStep State.halted
  cases hf : s.fault with
  | some f => exact .inl ⟨by simp, by simp⟩
  | none =>
    cases hp : s.fetchable with
    | false => exact .inr (.inl ⟨rfl, rfl, by simp⟩)
    | true =>
      cases hd : decodeWord s.fetchWord with
      | none => exact .inr (.inr (.inl ⟨rfl, rfl, rfl, by simp [runWord, hd]⟩))
      | some i => exact .inr (.inr (.inr ⟨rfl, rfl, i, rfl, by simp [runWord, hd]⟩))

/-- A run goes on from the state its first step answers, for any machine behind the host's interface. -/
theorem run_succ_of_step (M : Host.Core) {n : Nat} {s t : M.State} (h : M.step s = .next t) :
    M.run (n + 1) s = M.run n t := by
  simp only [Host.Core.run, h]

/-- The same for this machine, in its own names. -/
theorem core_run_succ {n : Nat} {s t : State} (h : step s = .next t) :
    Sys2Proof.core.run (n + 1) s = Sys2Proof.core.run n t :=
  run_succ_of_step Sys2Proof.core h

/-- Whether a sprite is in range is the question of the fault table (R161, R205). -/
theorem State.spriteInRange_false (y : Reg) (n : Nat) : s.spriteInRange y n = false ↔
    1 ≤ min n (32 - (s.reg y).toNat % 32) ∧ s.index.toNat + min n (32 - (s.reg y).toNat % 32) - 1 > 0xFFF := by
  simp only [State.spriteInRange, State.rowsDrawn, State.drawRow, Bool.or_eq_false_iff, State.dataInRange_false,
    beq_eq_false_iff_ne]
  omega

/-- An instruction raises the fault of the table that is due, or, when none is, completes with the fault record as it was
(R200, R208, R210). -/
theorem exec_cases (i : Instr) :
    (∃ k, s.instrFaultDue i = some k ∧ exec i s = raiseFault k i s) ∨
    (s.instrFaultDue i = none ∧ ∃ t, exec i s = .next t ∧ t.fault = s.fault) := by
  cases i
  case ret =>
    rcases s.pop_cases with ⟨h, e⟩ | ⟨h, e⟩
    · exact .inr ⟨if_neg (by omega), _, by simp only [exec, execRet, e]; rfl, by rfl⟩
    · exact .inl ⟨_, if_pos h, by simp only [exec, execRet, e]⟩
  case call nnn =>
    rcases s.push_cases s.pc with ⟨h, e⟩ | ⟨h, e⟩
    · exact .inr ⟨if_neg (by omega), _, by simp only [exec, execCall, e]; rfl, by rfl⟩
    · exact .inl ⟨_, if_pos h, by simp only [exec, execCall, e]⟩
  case drw x y n =>
    cases h : s.spriteInRange y n with
    | false => exact .inl ⟨_, if_pos ((s.spriteInRange_false y n).1 h), by simp [exec, execDrw, h]⟩
    | true =>
      have hn := fun c => Bool.false_ne_true (((s.spriteInRange_false y n).2 c).symm.trans h)
      exact .inr ⟨if_neg hn, _, by simp only [exec, execDrw, h, if_true]; rfl, by rfl⟩
  case ldB x =>
    cases h : s.dataInRange 2 with
    | false => exact .inl ⟨_, if_pos ((s.dataInRange_false 2).1 h), by simp [exec, execLdB, h]⟩
    | true =>
      exact .inr ⟨if_neg (Nat.not_lt.2 ((s.dataInRange_iff 2).1 h)), _,
        by simp only [exec, execLdB, h, if_true]; rfl, by rfl⟩
  case stRegs x =>
    cases h : s.dataInRange x.val with
    | false => exact .inl ⟨_, if_pos ((s.dataInRange_false _).1 h), by simp [exec, execStRegs, h]⟩
    | true =>
      exact .inr ⟨if_neg (Nat.not_lt.2 ((s.dataInRange_iff _).1 h)), _,
        by simp only [exec, execStRegs, h, if_true]; rfl, by simp⟩
  case ldRegs x =>
    cases h : s.dataInRange x.val with
    | false => exact .inl ⟨_, if_pos ((s.dataInRange_false _).1 h), by simp [exec, execLdRegs, h]⟩
    | true =>
      exact .inr ⟨if_neg (Nat.not_lt.2 ((s.dataInRange_iff _).1 h)), _,
        by simp only [exec, execLdRegs, h, if_true]; rfl, by simp⟩
  case skp x =>
    rcases keyOf_cases (s.reg x) with ⟨h, e⟩ | ⟨h, e⟩
    · exact .inr ⟨if_neg (by omega), _, by simp only [exec, execSkp, e]; rfl, by simp⟩
    · exact .inl ⟨_, if_pos h, by simp only [exec, execSkp, e]⟩
  case sknp x =>
    rcases keyOf_cases (s.reg x) with ⟨h, e⟩ | ⟨h, e⟩
    · exact .inr ⟨if_neg (by omega), _, by simp only [exec, execSknp, e]; rfl, by simp⟩
    · exact .inl ⟨_, if_pos h, by simp only [exec, execSknp, e]⟩
  case addI x => exact .inr ⟨rfl, _, rfl, by split <;> rfl⟩
  all_goals exact .inr ⟨rfl, _, rfl, by first | rfl | simp⟩

/-- The fault due depends on `pc`, memory, `sp`, the registers and `I` alone. -/
theorem State.faultDue_congr {s t : State} (h1 : t.pc = s.pc) (h2 : t.mem = s.mem) (h3 : t.sp = s.sp) (h4 : t.v = s.v)
    (h5 : t.index = s.index) : t.faultDue = s.faultDue := by
  have hr : ∀ r, t.reg r = s.reg r := fun r => by simp only [State.reg, h4]
  unfold State.faultDue State.instrFaultDue
  simp only [h1, h2, h3, h5, hr]

/-- The state an instruction that can fault completes with, its checks passed; for the others, the one `exec` answers. -/
def Completion (i : Instr) (s t : State) : Prop :=
  match i with
  | .ret => ∃ h : 0 < s.sp.val,
      t = (s.setSp ⟨s.sp.val - 1, by omega⟩).setPc (s.stack.get ⟨s.sp.val - 1, by omega⟩)
  | .call nnn => ∃ h : s.sp.val < 64,
      t = ((s.setStack (s.stack.set s.sp.val s.pc h)).setSp ⟨s.sp.val + 1, by omega⟩).setPc (addressOf nnn)
  | .drw x y n => t = ((s.setDisp (s.drawing x y n).disp).setFlag (s.drawing x y n).hit).setDrawn true
  | .skp x => ∃ k, keyOf (s.reg x) = some k ∧ t = s.skipIf (s.keyDown k)
  | .sknp x => ∃ k, keyOf (s.reg x) = some k ∧ t = s.skipIf (!s.keyDown k)
  | .ldB x => s.dataInRange 2 = true ∧ t = s.setMem (s.mem.writeBytes (s.dataAddr 0) (decimalDigits (s.reg x)))
  | .stRegs x => s.dataInRange x.val = true ∧
      t = (s.setMem (s.mem.writeBytes (s.dataAddr 0) (s.regBlock x))).advanceIndex x
  | .ldRegs x => t = (s.loadRegBlock x).advanceIndex x
  | _ => .next t = exec i s

/-- An instruction with no fault due completes in the state `Completion` says. -/
theorem exec_completion (i : Instr) (t : State) (h : exec i s = .next t) (hk : s.instrFaultDue i = none) :
    Completion i s t := by
  cases i
  case ret =>
    rcases s.pop_cases with ⟨h', e⟩ | ⟨h', e⟩
    · simp only [exec, execRet, e] at h; cases h; exact ⟨h', rfl⟩
    · simp [State.instrFaultDue, h'] at hk
  case call =>
    rcases s.push_cases s.pc with ⟨h', e⟩ | ⟨h', e⟩
    · simp only [exec, execCall, e] at h; cases h; exact ⟨h', rfl⟩
    · simp [State.instrFaultDue, h'] at hk
  case drw x y n =>
    cases hr : s.spriteInRange y n
    · rw [State.instrFaultDue, if_pos ((s.spriteInRange_false y n).1 hr)] at hk; cases hk
    · simp only [exec, execDrw, hr, if_true] at h; cases h; rfl
  case skp x =>
    rcases keyOf_cases (s.reg x) with ⟨h', e⟩ | ⟨h', e⟩
    · simp only [exec, execSkp, e] at h; cases h; exact ⟨_, e, rfl⟩
    · simp [State.instrFaultDue, h'] at hk
  case sknp x =>
    rcases keyOf_cases (s.reg x) with ⟨h', e⟩ | ⟨h', e⟩
    · simp only [exec, execSknp, e] at h; cases h; exact ⟨_, e, rfl⟩
    · simp [State.instrFaultDue, h'] at hk
  case ldB x =>
    cases hr : s.dataInRange 2
    · rw [State.instrFaultDue, if_pos ((s.dataInRange_false _).1 hr)] at hk; cases hk
    · simp only [exec, execLdB, hr, if_true] at h; cases h; exact ⟨hr, rfl⟩
  case stRegs x =>
    cases hr : s.dataInRange x.val
    · rw [State.instrFaultDue, if_pos ((s.dataInRange_false _).1 hr)] at hk; cases hk
    · simp only [exec, execStRegs, hr, if_true] at h; cases h; exact ⟨hr, rfl⟩
  case ldRegs x =>
    cases hr : s.dataInRange x.val
    · rw [State.instrFaultDue, if_pos ((s.dataInRange_false _).1 hr)] at hk; cases hk
    · simp only [exec, execLdRegs, hr, if_true] at h; cases h; rfl
  all_goals exact h.symm

end Sys2Proof.Machine
end

