-- ==== Sys2Proof/Machine/Assembly.lean ====
section
/-! DEFINITION. The written form of an instruction (spec/30_encoding.md R78; the notation is the spec's own, D19;
log 19). The machine does not read it. -/

namespace Sys2Proof

/-- One hexadecimal digit, in capitals. -/
def hexDigit (n : Nat) : String := String.singleton ("0123456789ABCDEF".toList.getD (n % 16) '0')

/-- `Vx`: `V` and one hexadecimal digit. -/
def writtenReg (r : Reg) : String := "V" ++ hexDigit r.val

/-- `nn`: two hexadecimal digits after `0x`. -/
def writtenByte (b : Byte) : String := "0x" ++ hexDigit (b.toNat / 16) ++ hexDigit b.toNat

/-- `nnn`: three hexadecimal digits after `0x`. -/
def writtenAddress (a : BitVec 12) : String :=
  "0x" ++ hexDigit (a.toNat / 256) ++ hexDigit (a.toNat / 16) ++ hexDigit a.toNat

/-- A name and one operand. -/
def written1 (name a : String) : String := name ++ " " ++ a

/-- A name and two operands. -/
def written2 (name a b : String) : String := name ++ " " ++ a ++ ", " ++ b

/-- The written form of an instruction, by the table of R78. -/
def Instr.written : Instr → String
  | .cls => "CLS"
  | .ret => "RET"
  | .jp nnn => written1 "JP" (writtenAddress nnn)
  | .call nnn => written1 "CALL" (writtenAddress nnn)
  | .seVxNn x nn => written2 "SE" (writtenReg x) (writtenByte nn)
  | .sneVxNn x nn => written2 "SNE" (writtenReg x) (writtenByte nn)
  | .seVxVy x y => written2 "SE" (writtenReg x) (writtenReg y)
  | .ldVxNn x nn => written2 "LD" (writtenReg x) (writtenByte nn)
  | .addVxNn x nn => written2 "ADD" (writtenReg x) (writtenByte nn)
  | .ldVxVy x y => written2 "LD" (writtenReg x) (writtenReg y)
  | .or x y => written2 "OR" (writtenReg x) (writtenReg y)
  | .and x y => written2 "AND" (writtenReg x) (writtenReg y)
  | .xor x y => written2 "XOR" (writtenReg x) (writtenReg y)
  | .addVxVy x y => written2 "ADD" (writtenReg x) (writtenReg y)
  | .sub x y => written2 "SUB" (writtenReg x) (writtenReg y)
  | .shr x y => written2 "SHR" (writtenReg x) (writtenReg y)
  | .subn x y => written2 "SUBN" (writtenReg x) (writtenReg y)
  | .shl x y => written2 "SHL" (writtenReg x) (writtenReg y)
  | .sneVxVy x y => written2 "SNE" (writtenReg x) (writtenReg y)
  | .ldI nnn => written2 "LD" "I" (writtenAddress nnn)
  | .jpOff nnn => written2 "JP" "V0" (writtenAddress nnn)
  | .rnd x nn => written2 "RND" (writtenReg x) (writtenByte nn)
  | .drw x y n => written2 "DRW" (writtenReg x) (writtenReg y) ++ ", " ++ toString n
  | .skp x => written1 "SKP" (writtenReg x)
  | .sknp x => written1 "SKNP" (writtenReg x)
  | .ldVxDt x => written2 "LD" (writtenReg x) "DT"
  | .ldVxK x => written2 "LD" (writtenReg x) "K"
  | .ldDtVx x => written2 "LD" "DT" (writtenReg x)
  | .ldStVx x => written2 "LD" "ST" (writtenReg x)
  | .addI x => written2 "ADD" "I" (writtenReg x)
  | .ldF x => written2 "LD" "F" (writtenReg x)
  | .ldB x => written2 "LD" "B" (writtenReg x)
  | .stRegs x => written2 "LD" "[I]" (writtenReg x)
  | .ldRegs x => written2 "LD" (writtenReg x) "[I]"

/-- `DB b, b, ...`: the bytes it places in an image. -/
def writtenBytes (bytes : List Byte) : String := "DB " ++ ", ".intercalate (bytes.map writtenByte)

end Sys2Proof
end

