-- ==== Sys2Proof/Tests/Slice0.lean ====
section
/-! SUPPORT. Tests. Expected results come from the spec: worked examples S<n> and vectors CF, AL, MX, DS, KT, TX of
spec/95_test_vectors.md, the words of spec/30_encoding.md R75, and the tables of R38 and R58. Each step test is one step of a
small state. At the end, one witness for every statement that has hypotheses. -/

namespace Sys2Proof.Tests

open Sys2Proof Sys2Proof.Machine

/-! ### Builders -/

/-- Quirks all false, and all true. -/
def off : Quirks := ⟨false, false, false, false, false⟩
def on : Quirks := ⟨true, true, true, true, true⟩

/-- The reset state with `pc` at an address and a word stored there. -/
def at_ (q : Quirks) (pc w : Nat) : State :=
  ((State.resetWith q).setPc (BitVec.ofNat 16 pc)).withFetchWord 16 w

/-- The reset state with a word at 0x200. -/
def demo (q : Quirks) (w : Nat) : State := at_ q 0x200 w

/-- Bytes stored from an address on. -/
def poke (s : State) (a : Nat) (bytes : List Byte) : State := s.setMem (s.mem.writeBytes a bytes)

/-- The state a result carries. -/
def state (s : State) (o : Result) : State :=
  match o with
  | .next t => t
  | .fault _ => s
  | .refused _ => s

/-- One step. -/
def after (s : State) : State := state s (step s)

/-- One step with a named random byte. -/
def afterRnd (b : Byte) (s : State) : State := state s (stepWith b s)

/-- One transaction. -/
def did (tr : Transaction) (s : State) : State := state s (perform tr s)

/-- The keys named are down. -/
def keysDown (ks : List Nat) : Vector Bool 16 := Vector.ofFn fun k : Fin 16 => ks.contains k.val

/-- The pixels of a state that are on, as (row, column), in rows `y0` to `y0 + rows - 1` and all columns. -/
def lit (s : State) (y0 rows : Nat) : List (Nat × Nat) :=
  (List.range' y0 rows).flatMap fun y => (List.range 64).filterMap fun x =>
    if h : y < 32 ∧ x < 64 then if s.pixel ⟨y, h.1⟩ ⟨x, h.2⟩ then some (y, x) else none else none

/-- A step that faults: the record, `pc` back at the instruction, and nothing else changed but `started`. -/
def faults (s : State) (kind : FaultKind) (pc word : Nat) : Prop :=
  after s = (s.setStarted true).setFault (some ⟨kind, BitVec.ofNat 16 pc, BitVec.ofNat 16 word⟩)

/-! ### WellFormed refuses each ill-formed term; every other operand fits by its type -/

theorem test_wellFormed_drw_sixteen_rows : (Instr.drw 0 0 16).wellFormed = false := by decide
theorem test_wellFormed_drw_fifteen_rows : (Instr.drw 15 15 15).wellFormed = true := by decide

/-! ### Decoding: a word written out from R75 for every constructor -/

theorem test_decode_control :
    decodeWord 0b0000000011100000#16 = some .cls ∧
    decodeWord 0b0000000011101110#16 = some .ret ∧
    decodeWord 0b0001101010111100#16 = some (.jp 0xABC) ∧
    decodeWord 0b0010000100100011#16 = some (.call 0x123) ∧
    decodeWord 0b1011111111111110#16 = some (.jpOff 0xFFE) := by decide

theorem test_decode_skips :
    decodeWord 0b0011000110000000#16 = some (.seVxNn 1 0x80) ∧
    decodeWord 0b0100111000000001#16 = some (.sneVxNn 14 0x01) ∧
    decodeWord 0b0101001011010000#16 = some (.seVxVy 2 13) ∧
    decodeWord 0b1001110100100000#16 = some (.sneVxVy 13 2) := by decide

theorem test_decode_alu :
    decodeWord 0b0110101000101100#16 = some (.ldVxNn 10 0x2C) ∧
    decodeWord 0b0111000111111111#16 = some (.addVxNn 1 0xFF) ∧
    decodeWord 0b1000000100100000#16 = some (.ldVxVy 1 2) ∧
    decodeWord 0b1000000100100001#16 = some (.or 1 2) ∧
    decodeWord 0b1000000100100010#16 = some (.and 1 2) ∧
    decodeWord 0b1000000100100011#16 = some (.xor 1 2) ∧
    decodeWord 0b1000000100100100#16 = some (.addVxVy 1 2) ∧
    decodeWord 0b1000000100100101#16 = some (.sub 1 2) ∧
    decodeWord 0b1000000100100110#16 = some (.shr 1 2) ∧
    decodeWord 0b1000000100100111#16 = some (.subn 1 2) ∧
    decodeWord 0b1000000100101110#16 = some (.shl 1 2) := by decide

theorem test_decode_index_memory :
    decodeWord 0b1010001011110000#16 = some (.ldI 0x2F0) ∧
    decodeWord 0b1111100000011110#16 = some (.addI 8) ∧
    decodeWord 0b1111100000101001#16 = some (.ldF 8) ∧
    decodeWord 0b1111100000110011#16 = some (.ldB 8) ∧
    decodeWord 0b1111100001010101#16 = some (.stRegs 8) ∧
    decodeWord 0b1111000101100101#16 = some (.ldRegs 1) := by decide

theorem test_decode_display_keys_timers_random :
    decodeWord 0b1101000100101111#16 = some (.drw 1 2 15) ∧
    decodeWord 0b1110001110011110#16 = some (.skp 3) ∧
    decodeWord 0b1110001110100001#16 = some (.sknp 3) ∧
    decodeWord 0b1111010000000111#16 = some (.ldVxDt 4) ∧
    decodeWord 0b1111010000001010#16 = some (.ldVxK 4) ∧
    decodeWord 0b1111010000010101#16 = some (.ldDtVx 4) ∧
    decodeWord 0b1111010000011000#16 = some (.ldStVx 4) ∧
    decodeWord 0b1100001100001111#16 = some (.rnd 3 0x0F) := by decide

/-- The illegal words of 95_test_vectors.md 2.6. -/
theorem test_decode_illegal :
    ([0x0000, 0x0123, 0x00E1, 0x00FD, 0x5121, 0x9AB1, 0x8128, 0x812F, 0xE000, 0xF000, 0xF075, 0xFFFF] : List Word).all
      (fun w => decodeWord w == none) = true := by decide

/-- The rows of R75 are 34 and pairwise disjoint (R74). -/
theorem test_rows_disjoint : opcodeRows.length = 34 ∧
    opcodeRows.Pairwise (fun r q => (r.pattern ^^^ q.pattern) &&& r.mask &&& q.mask ≠ 0) := by decide

theorem test_decodeTableWord : decodeTableWord 16 0xD01F = some (.drw 0 1 15) ∧ decodeTableWord 16 0x5121 = none := by
  decide

theorem test_decodeBytes_truncated : decodeBytes [0xD0] = .error .truncated := by rfl

/-- Written forms in the programs P2, P3 and P4 (R78). -/
theorem test_written : (Instr.ldVxNn 0 0x9C).written = "LD V0, 0x9C" ∧ (Instr.call 0x210).written = "CALL 0x210" ∧
    (Instr.ldRegs 2).written = "LD V2, [I]" ∧ (Instr.drw 0 1 2).written = "DRW V0, V1, 2" ∧
    (Instr.ldVxK 2).written = "LD V2, K" ∧ writtenBytes [0xFF, 0x81] = "DB 0xFF, 0x81" := by decide

/-! ### Reset (R38, R58; TX1) and memory -/

theorem test_reset_font : (State.resetWith on).mem.read 0x50 = 0xF0 ∧ (State.resetWith on).mem.read 0x9F = 0x80 ∧
    (State.resetWith on).mem.read 0x4F = 0x00 ∧ (State.resetWith on).mem.read 0xA0 = 0x00 ∧
    (State.resetWith on).mem.readBytes 0x82 5 = [0xF0, 0x90, 0xF0, 0x90, 0x90] := by decide

theorem test_reset_memory_wf : State.reset.mem.wf = true := by decide

theorem test_write_of_the_unlisted_value_unlists :
    (((State.reset.mem.write 0x50 0x11).write 0x300 0x22).write 0x50 0xF0) = [(0x300, 0x22)] := by decide

/-! ### Control flow -/

theorem test_CF1_jp : (after (at_ off 0x20A 0x1204)).pc = 0x0204 := by decide
theorem test_CF2_jp_to_self : after ((demo off 0x1200).setStarted true) = (demo off 0x1200).setStarted true := by rfl
theorem test_CF4_call : (after (at_ off 0x204 0x2210)).stack[0] = 0x0206 ∧ (after (at_ off 0x204 0x2210)).sp = 1 ∧
    (after (at_ off 0x204 0x2210)).pc = 0x0210 := by decide
theorem test_CF5_call_full : faults ((demo off 0x2200).setSp 64) .stackOverflow 0x200 0x2200 := by rfl

/-- The start of CF6. -/
def cf6 : State := ((at_ off 0x212 0x00EE).setSp 1).setStack ((Vector.replicate 64 0).set 0 0x0206)

theorem test_CF6_ret : (after cf6).pc = 0x0206 ∧ (after cf6).sp = 0 ∧ (after cf6).stack[0] = 0x0206 := by decide
theorem test_CF7_ret_empty : faults (demo off 0x00EE) .stackUnderflow 0x200 0x00EE := by rfl
theorem test_CF8_CF9_se_nn : (after (at_ off 0x208 0x3100)).pc = 0x020C ∧
    (after ((at_ off 0x208 0x3100).setReg 1 1)).pc = 0x020A := by decide
theorem test_CF10_skip_out_of_memory : (after (at_ off 0xFFE 0x3000)).pc = 0x1002 ∧
    faults (after (at_ off 0xFFE 0x3000)) .badProgramCounter 0x1002 0 := ⟨by decide, by rfl⟩
theorem test_CF11_CF12_sne_nn : (after ((demo off 0x4A10).setReg 10 0x10)).pc = 0x0202 ∧
    (after ((demo off 0x4A10).setReg 10 0x11)).pc = 0x0204 := by decide
theorem test_CF13_se_vy : (after (((demo off 0x5120).setReg 1 7).setReg 2 7)).pc = 0x0204 ∧
    (after (((demo off 0x5120).setReg 1 7).setReg 2 8)).pc = 0x0202 := by decide
theorem test_CF15_CF16_sne_vy : (after (((demo off 0x9120).setReg 1 7).setReg 2 8)).pc = 0x0204 ∧
    (after ((demo off 0x9330).setReg 3 9)).pc = 0x0202 := by decide
theorem test_CF17_CF18_jpOff : (after (((demo on 0xB300).setReg 0 4).setReg 3 0x10)).pc = 0x0304 ∧
    (after (((demo off 0xB300).setReg 0 4).setReg 3 0x10)).pc = 0x0310 := by decide
theorem test_CF19_jpOff_not_masked : (after ((demo off 0xBFFF).setReg 15 0xFF)).pc = 0x10FE := by decide

/-! ### Immediate and register ALU -/

theorem test_AL2_ld_nn : (after (demo off 0x6FAB)).reg 15 = 0xAB ∧ (after (demo off 0x6FAB)).pc = 0x0202 := by decide
theorem test_AL4_add_nn_no_carry : (after ((demo off 0x7001).setReg 0 0xFF)).reg 0 = 0 ∧
    (after ((demo off 0x7001).setReg 0 0xFF)).reg 15 = 0 := by decide
theorem test_AL6_ld_vy : (after ((demo off 0x8120).setReg 2 0x33)).reg 1 = 0x33 := by decide

/-- The start of AL8 and AL9. -/
def al8 (q : Quirks) : State := (((demo q 0x8121).setReg 1 0x0F).setReg 2 0xF0).setReg 15 1

theorem test_AL8_AL9_or : (after (al8 off)).reg 1 = 0xFF ∧ (after (al8 off)).reg 15 = 1 ∧
    (after (al8 on)).reg 1 = 0xFF ∧ (after (al8 on)).reg 15 = 0 := by decide
theorem test_AL10_AL11_or_vf : (after (((demo off 0x8F11).setReg 15 1).setReg 1 0x10)).reg 15 = 0x11 ∧
    (after (((demo on 0x8F11).setReg 15 1).setReg 1 0x10)).reg 15 = 0 := by decide
theorem test_AL13_and_old_vf : (after (((demo on 0x80F2).setReg 0 0xFF).setReg 15 1)).reg 0 = 1 ∧
    (after (((demo on 0x80F2).setReg 0 0xFF).setReg 15 1)).reg 15 = 0 := by decide
theorem test_AL14_xor : (after (((demo off 0x8123).setReg 1 0xFF).setReg 2 0x0F)).reg 1 = 0xF0 := by decide
theorem test_S3_add_carry : (after (((demo off 0x8014).setReg 0 0xFF).setReg 1 1)).reg 0 = 0 ∧
    (after (((demo off 0x8014).setReg 0 0xFF).setReg 1 1)).reg 15 = 1 := by decide
theorem test_AL18_add_into_vf : (after (((demo off 0x8F14).setReg 15 0xF0).setReg 1 0x20)).reg 15 = 1 := by decide
theorem test_S6_sub_borrow : (after (((demo off 0x8015).setReg 0 2).setReg 1 5)).reg 0 = 0xFD ∧
    (after (((demo off 0x8015).setReg 0 2).setReg 1 5)).reg 15 = 0 := by decide
theorem test_AL20_sub_equal : (after (((demo off 0x8015).setReg 0 7).setReg 1 7)).reg 0 = 0 ∧
    (after (((demo off 0x8015).setReg 0 7).setReg 1 7)).reg 15 = 1 := by decide
theorem test_AL24_AL25_subn : (after (((demo off 0x8017).setReg 0 2).setReg 1 5)).reg 0 = 3 ∧
    (after (((demo off 0x8017).setReg 0 5).setReg 1 2)).reg 0 = 0xFD ∧
    (after (((demo off 0x8017).setReg 0 5).setReg 1 2)).reg 15 = 0 := by decide
theorem test_AL27_AL28_shr : (after (((demo off 0x8126).setReg 1 0xFF).setReg 2 5)).reg 1 = 0x7F ∧
    (after (((demo on 0x8126).setReg 1 0xFF).setReg 2 5)).reg 1 = 2 ∧
    (after (((demo on 0x8126).setReg 1 0xFF).setReg 2 5)).reg 2 = 5 := by decide
theorem test_AL31_AL32_shr_vf : (after ((demo off 0x8F16).setReg 15 3)).reg 15 = 1 ∧
    (after ((demo off 0x8F16).setReg 15 2)).reg 15 = 0 := by decide
theorem test_AL34_AL35_shl : (after (((demo off 0x812E).setReg 1 0x81).setReg 2 0x40)).reg 1 = 2 ∧
    (after (((demo off 0x812E).setReg 1 0x81).setReg 2 0x40)).reg 15 = 1 ∧
    (after (((demo on 0x812E).setReg 1 0x81).setReg 2 0x40)).reg 1 = 0x80 ∧
    (after (((demo on 0x812E).setReg 1 0x81).setReg 2 0x40)).reg 15 = 0 := by decide

/-! ### Index register and memory -/

theorem test_MX1_ld_i : (after (demo off 0xA2F0)).index = 0x02F0 := by decide

/-- The starts of MX2 to MX5: `I`, `V0`, and VF = 7. -/
def mx (q : Quirks) (i : Word) (b : Byte) : State := (((demo q 0xF01E).setIndex i).setReg 0 b).setReg 15 7

theorem test_MX3_MX4_add_i : (after (mx on 0x0FFF 1)).index = 0x1000 ∧ (after (mx on 0x0FFF 1)).reg 15 = 1 ∧
    (after (mx on 0x0FFE 1)).index = 0x0FFF ∧ (after (mx on 0x0FFE 1)).reg 15 = 0 := by decide
theorem test_MX2_MX5_add_i : (after (mx on 0xFFFF 2)).index = 1 ∧ (after (mx on 0xFFFF 2)).reg 15 = 1 ∧
    (after (mx off 0x0FFF 1)).index = 0x1000 ∧ (after (mx off 0x0FFF 1)).reg 15 = 7 := by decide
theorem test_MX8_ld_f : (after ((demo off 0xF029).setReg 0 0x1A)).index = 0x0082 ∧
    (after ((demo off 0xF029).setReg 0 0x0F)).index = 0x009B := by decide
theorem test_MX13_ld_b_top :
    (after (((demo off 0xF033).setReg 0 0xFF).setIndex 0xFFD)).mem.readBytes 0xFFC 4 = [0, 2, 5, 5] := by decide
theorem test_MX14_ld_b_faults :
    faults (((demo off 0xF033).setReg 0 0xFF).setIndex 0xFFE) .memoryOutOfRange 0x200 0xF033 := by rfl

/-- The start of MX17. -/
def mx17 (q : Quirks) : State := (((demo q 0xFF55).setReg 0 1).setReg 15 0x0F).setIndex 0xFF0

theorem test_MX17_store : (after (mx17 on)).mem.readBytes 0xFF0 16 = [1, 0, 0, 0, 0, 0, 0, 0, 0, 0, 0, 0, 0, 0, 0, 0x0F] ∧
    (after (mx17 on)).index = 0x1000 ∧ (after (mx17 off)).index = 0x0FF0 := by decide
theorem test_MX16_store_faults :
    faults ((((demo off 0xF155).setReg 0 0xAA).setReg 1 0xBB).setIndex 0xFFF) .memoryOutOfRange 0x200 0xF155 := by rfl

/-- A load of V0 to V2 from 0x300 (the end of MX9 and MX10). -/
def mx9 (q : Quirks) : State := (poke ((demo q 0xF265).setIndex 0x300) 0x300 [0x11, 0x22, 0x33]).setReg 3 0x44

theorem test_MX9_MX10_load : (after (mx9 off)).reg 0 = 0x11 ∧ (after (mx9 off)).reg 1 = 0x22 ∧
    (after (mx9 off)).reg 2 = 0x33 ∧ (after (mx9 off)).reg 3 = 0x44 ∧ (after (mx9 off)).index = 0x300 ∧
    (after (mx9 on)).index = 0x303 := by decide
theorem test_MX18_load_faults :
    faults ((demo off 0xFF65).setIndex 0xFF1) .memoryOutOfRange 0x200 0xFF65 := by rfl

/-! ### Display -/

/-- The start of DS1. -/
def ds1 : State := poke ((demo off 0xD011).setIndex 0x300) 0x300 [0xA5]

theorem test_DS1_drw : lit (after ds1) 0 2 = [(0, 0), (0, 2), (0, 5), (0, 7)] ∧ (after ds1).reg 15 = 0 ∧
    (after ds1).drawn = true := by decide

/-- The start of DS2: (0,0) and (0,1) on. -/
def ds2 : State := ds1.setDisp ((ds1.disp.setPixel 0 0 true).setPixel 0 1 true)

theorem test_DS2_drw_collides : lit (after ds2) 0 1 = [(0, 1), (0, 2), (0, 5), (0, 7)] ∧ (after ds2).reg 15 = 1 := by
  decide

/-- The start of DS4. -/
def ds4 : State := poke ((((demo off 0xD013).setReg 0 62).setReg 1 30).setIndex 0x300) 0x300 [0xC0, 0xC0, 0xC0]

theorem test_DS4_drw_clips : lit (after ds4) 30 2 = [(30, 62), (30, 63), (31, 62), (31, 63)] ∧ lit (after ds4) 0 2 = [] ∧
    (after ds4).reg 15 = 0 := by decide

/-- The starts of DS6 (row 0) and DS7 (row 31). -/
def ds6 (row : Byte) : State := poke (((demo off 0xD012).setReg 1 row).setIndex 0xFFF) 0xFFF [0x80]

theorem test_DS6_drw_faults : faults (ds6 0) .memoryOutOfRange 0x200 0xD012 := by rfl
theorem test_DS7_drw_clipped_row_not_read : lit (after (ds6 31)) 31 1 = [(31, 0)] ∧ (after (ds6 31)).fault = none := by
  decide
theorem test_DS8_drw_old_vf :
    lit (after (poke ((((demo off 0xDF11).setReg 15 5).setReg 1 2).setIndex 0x300) 0x300 [0x80])) 2 1 = [(2, 5)] := by
  decide
theorem test_DS11_cls : lit (after ((ds2.withFetchWord 16 0x00E0).setReg 15 1)) 0 1 = [] ∧
    (after ((ds2.withFetchWord 16 0x00E0).setReg 15 1)).reg 15 = 1 ∧
    (after ((ds2.withFetchWord 16 0x00E0).setReg 15 1)).drawn = false := by decide

/-! ### Keys, timers, random -/

theorem test_KT1_KT2_skp : (after (((at_ off 0x220 0xE39E).setReg 3 5).setKeys (keysDown [5]))).pc = 0x0224 ∧
    (after ((at_ off 0x220 0xE39E).setReg 3 5)).pc = 0x0222 := by decide
theorem test_KT4_KT5_sknp : (after (((demo off 0xE0A1).setReg 0 15).setKeys (keysDown [15]))).pc = 0x0202 ∧
    (after ((at_ off 0x220 0xE3A1).setReg 3 5)).pc = 0x0224 := by decide
theorem test_KT6_skp_faults : faults ((demo off 0xE09E).setReg 0 0x10) .keyIndexOutOfRange 0x200 0xE09E := by rfl
theorem test_KT7_sknp_faults : faults ((demo off 0xE0A1).setReg 0 0xFF) .keyIndexOutOfRange 0x200 0xE0A1 := by rfl

/-- The starts of KT8 to KT11. -/
def kt (w : Option (Fin 16)) (down : List Nat) : State := ((demo off 0xF20A).setWaitKey w).setKeys (keysDown down)

theorem test_KT8_KT9_keyWait_press : (after (kt none [])).pc = 0x0200 ∧ (after (kt none [])).waitKey = none ∧
    (after (kt none [7, 11])).pc = 0x0200 ∧ (after (kt none [7, 11])).waitKey = some 7 := by decide
theorem test_KT10_KT11_keyWait_release : (after (kt (some 7) [7])).pc = 0x0200 ∧
    (after (kt (some 7) [7])).waitKey = some 7 ∧ (after (kt (some 7) [11])).pc = 0x0202 ∧
    (after (kt (some 7) [11])).reg 2 = 7 ∧ (after (kt (some 7) [11])).waitKey = none := by decide
theorem test_KT14_ld_vx_dt : (after ((demo off 0xF107).setDt 3)).reg 1 = 3 := by decide
theorem test_KT15_ld_dt_vx : (after ((demo off 0xF015).setReg 0 0x3C)).dt = 0x3C := by decide
theorem test_KT16_ld_st_vx : (after ((demo off 0xF018).setReg 0 8)).st = 8 := by decide
theorem test_KT18_KT19_tick : (((State.resetWith off).setDt 2).tick).dt = 1 ∧ ((State.resetWith off).tick).dt = 0 ∧
    ((((State.resetWith off).setDt 0xFF).setSt 1).tick).dt = 0xFE ∧
    ((((State.resetWith off).setDt 0xFF).setSt 1).tick).st = 0 := by decide
theorem test_KT21_KT23_rnd : (afterRnd 0xA7 (demo off 0xC30F)).reg 3 = 0x07 ∧
    (afterRnd 0xFF ((demo off 0xC500).setReg 5 0x99)).reg 5 = 0 ∧ (afterRnd 0xA7 (demo off 0xC30F)).rndArg = none := by
  decide

/-! ### Fetch check, illegal words and transactions -/

theorem test_fetch_check : faults ((State.resetWith off).setPc 0x0201) .badProgramCounter 0x0201 0 ∧
    faults ((State.resetWith off).setPc 0x1000) .badProgramCounter 0x1000 0 ∧
    faults ((State.resetWith off).setPc 0x0000) .unimplementedOpcode 0x0000 0x0000 ∧
    (after (at_ off 0xFFE 0x1FFE)).fault = none := ⟨by rfl, by rfl, by rfl, by rfl⟩
theorem test_illegal_word_faults : faults (demo off 0x5121) .unimplementedOpcode 0x200 0x5121 := by rfl
/-- P5c: no image. -/
theorem test_P5c_first_step_of_reset : faults State.reset .unimplementedOpcode 0x200 0x0000 := by rfl
theorem test_TX5_loads_overlay :
    (((State.resetWith off).load [1, 2, 3, 4]).load [9]).mem.readBytes 0x200 4 = [9, 2, 3, 4] := by decide
theorem test_TX4_load_refused : (after ((State.resetWith off).load [0x12, 0x00])).loadStatus [0x00] = .refused := by decide
theorem test_TX6_halted : after (after State.reset) = after State.reset ∧
    ((after State.reset).setDt 5).tick.dt = 5 ∧ did (.reset on) (after State.reset) = State.resetWith on :=
  ⟨by rfl, by rfl, by rfl⟩

/-! ### Witnesses: a concrete state and operands that meet the hypotheses of each statement -/

theorem witness_DecodeOfEncodeIsTheInstruction : (Instr.drw 15 15 15).wellFormed = true := by decide
theorem witness_EncodeOfDecodeIsTheWord : decodeWord 0xDFFF#16 = some (.drw 15 15 15) := by decide
theorem witness_DecodeAgreesWithTheOpcodeMap : decodeWord 0x5FF0#16 = some (.seVxVy 15 15) ∧
    (⟨"SE_VX_VY", 0xF00F, 0x5000⟩ : OpcodeRow) ∈ opcodeRows ∧ (0x5FF0#16 : Word) &&& 0xF00F = 0x5000 := by decide

/-- A state at the last fetchable address, holding `1FFE`, and one at the first, holding `6FAB`. -/
theorem witness_StepRunsTheDecodedInstruction :
    ((at_ off 0xFFE 0x1FFE).fault = none ∧ (at_ off 0xFFE 0x1FFE).pc.toNat % 2 = 0 ∧
      (at_ off 0xFFE 0x1FFE).pc.toNat ≤ 0xFFE ∧
      decodeWord ((at_ off 0xFFE 0x1FFE).mem.read 0xFFE ++ (at_ off 0xFFE 0x1FFE).mem.read 0xFFF) = some (.jp 0xFFE)) ∧
    ((at_ off 0 0x6FAB).fault = none ∧ (at_ off 0 0x6FAB).pc.toNat = 0 ∧
      decodeWord ((at_ off 0 0x6FAB).mem.read 0 ++ (at_ off 0 0x6FAB).mem.read 1) = some (.ldVxNn 15 0xAB)) := by decide
theorem witness_StoredWordIsRunNext : (at_ off 0xFFE 0x0000).fault = none ∧ (at_ off 0xFFE 0x0000).pc.toNat % 2 = 0 ∧
    (at_ off 0xFFE 0x0000).pc.toNat ≤ 0xFFE ∧ (Instr.drw 15 15 15).wellFormed = true := by decide
theorem witness_FaultLatchedIsTheFaultDue : State.reset.fault = none ∧ step State.reset = .next (after State.reset) :=
  ⟨rfl, rfl⟩
theorem witness_FaultingStepChangesNothingElse : State.reset.fault = none ∧ step State.reset = .next (after State.reset) ∧
    (after State.reset).fault = some ⟨.unimplementedOpcode, 0x200, 0⟩ := ⟨rfl, rfl, rfl⟩
theorem witness_HaltedMachineWaitsForReset : (after State.reset).fault ≠ none ∧
    (∀ q, Transaction.step 0 ≠ .reset q) ∧
    perform (.step 0) (after State.reset) = .next (did (.step 0) (after State.reset)) :=
  ⟨by decide, by simp, rfl⟩

/-- A machine waiting for key 7 to be released, and a halted one, both in the invariant. -/
def waiting : State := (kt (some 7) [7]).setStarted true

theorem witness_Inv_waiting : waiting.Inv :=
  ⟨by decide, by decide, by decide, fun _ => by decide, fun f h => by cases h⟩
theorem witness_Inv_halted : (after State.reset).Inv :=
  ⟨by decide, by decide, by decide, fun h => absurd rfl h, fun f h => by cases h; decide⟩
theorem witness_EveryStepKeepsTheInvariant : waiting.Inv ∧ step waiting = .next (after waiting) :=
  ⟨witness_Inv_waiting, rfl⟩
theorem witness_EveryInterleavingKeepsTheInvariant : waiting.Inv ∧
    performAll [.tick, .setKeys (keysDown []), .clearDrawn, .load [1], .step 9] waiting =
      .next (state waiting (performAll [.tick, .setKeys (keysDown []), .clearDrawn, .load [1], .step 9] waiting)) :=
  ⟨witness_Inv_waiting, rfl⟩

theorem witness_QuirkFlagsAreFixedAndLocal : (∀ q, Transaction.tick ≠ .reset q) ∧
    perform .tick waiting = .next (did .tick waiting) ∧
    sameQuirksFor (.or 1 2) off ⟨false, true, true, true, true⟩ :=
  ⟨by simp, rfl, rfl⟩
theorem witness_InstructionsWriteOnlyWhatTheTableGives :
    exec (.addVxVy 0 1) (demo off 0x8014) = .next (state State.reset (exec (.addVxVy 0 1) (demo off 0x8014))) ∧
    writesReg off (.addVxVy 0 1) 1 = false ∧ writesPiece off (.addVxVy 0 1) .pc = false := ⟨rfl, by decide, by decide⟩
theorem witness_OnlyRndReadsTheRandomByte : ∀ x nn, Instr.ldRegs 15 ≠ .rnd x nn := by simp

theorem witness_ResetLeavesTheTableValues : (0x4F < 0x50 ∨ 0x9F < 0x4F) ∧ (0xA0 < 0x50 ∨ 0x9F < 0xA0) ∧
    State.reset.mem.read (0x50 + 5 * 15 + 4) = Config.font.getD (5 * 15 + 4) 0 := by decide
theorem witness_LoadCopiesTheImageOrChangesNothing : (State.resetWith on).started = false ∧
    (List.replicate 3584 (0xAA : Byte)).length ≤ 3584 ∧ 3584 < (List.replicate 3585 (0xAA : Byte)).length :=
  ⟨rfl, by rw [List.length_replicate], by rw [List.length_replicate]; decide⟩
theorem witness_LoadIsRefusedAfterAStep : stepWith 0 (demo off 0x1200) = .next (afterRnd 0 (demo off 0x1200)) := rfl
theorem witness_TicksCountDownToZero : ((State.resetWith off).setDt 0xFF).fault = none := rfl
theorem witness_LaunchedProgramStartsAtItsFirstWord :
    ((State.resetWith on).load (0x22 :: 0x10 :: [])).Launched on (0x22 :: 0x10 :: []) ∧
    decodeWord ((0x22 : Byte) ++ (0x10 : Byte)) = some (.call 0x210) := ⟨⟨by decide, rfl⟩, by decide⟩

/-- A jump to itself at 0xFFE, the last fetchable address. -/
def spin : State := (at_ off 0xFFE 0x1FFE).setStarted true

theorem witness_JumpToSelfRunsForEver : spin.fault = none ∧ spin.started = true ∧
    spin.pc = (0xFFE#12).setWidth 16 ∧ (0xFFE#12).toNat % 2 = 0 ∧
    decodeWord (spin.mem.read spin.pc.toNat ++ spin.mem.read (spin.pc.toNat + 1)) = some (.jp 0xFFE) := by decide

/-- `LD [I], V1` at 0xFFC with `I` at 0xFFE and the word `1FFE` in V0 and V1. -/
def patch : State := (((at_ off 0xFFC 0xF155).setIndex 0xFFE).setReg 0 0x1F).setReg 1 0xFE

theorem witness_StoreIsSeenByTheNextFetch : patch.fault = none ∧ patch.pc.toNat % 2 = 0 ∧ patch.pc.toNat ≤ 0xFFC ∧
    patch.index = patch.pc + 2 ∧
    decodeWord (patch.mem.read patch.pc.toNat ++ patch.mem.read (patch.pc.toNat + 1)) = some (.stRegs 1) ∧
    decodeWord (patch.reg 0 ++ patch.reg 1) = some (.jp 0xFFE) := by decide

/-! The stack: empty, one entry, one place left, full. -/

theorem witness_CallPushesTheNextAddress : (State.reset.setSp 0).sp.val < 64 ∧ (State.reset.setSp 63).sp.val < 64 := by
  decide
theorem witness_RetPopsIntoPc : (State.reset.setSp 1).sp.val = (0 : Fin 64).val + 1 ∧
    (State.reset.setSp 64).sp.val = (63 : Fin 64).val + 1 := by decide
theorem witness_StackLimitsRaiseTheirFaults : (State.reset.setSp 64).sp.val = 64 ∧ (State.reset.setSp 0).sp.val = 0 := by
  decide

/-- The state after a CALL from the last place of the stack, and the state of the subroutine at its RET. -/
def called : State := state State.reset (exec (.call 0x210) ((State.reset.setSp 63).setPc (0x204 + 2)))

theorem witness_ReturnComesBackAfterTheCall : (State.reset.setSp 63).sp.val < 64 ∧
    exec (.call 0x210) ((State.reset.setSp 63).setPc (0x204 + 2)) = .next called ∧
    (called.setReg 3 9).stack = called.stack ∧ (called.setReg 3 9).sp = called.sp := ⟨by decide, rfl, rfl, rfl⟩
theorem witness_JpOffAddsTheSelectedRegister : (State.resetWith on).quirks.jumpUsesV0 = true ∧
    (State.resetWith off).quirks.jumpUsesV0 = false ∧ (15 : Reg).val = (0xFFF#12).toNat / 256 := by decide

theorem witness_LogicOperationsAndTheirQuirk : (Instr.or 0 1 = .or 0 1 ∧ or = or) ∧ (Instr.and 15 1 = .and 15 1 ∧ and = and) ∧
    (Instr.xor 0 15 = .xor 0 15 ∧ xor = xor) ∧ ((0 : Reg) ≠ vf ∨ (State.resetWith on).quirks.logicResetsVf = false) ∧
    ((15 : Reg) ≠ vf ∨ (State.resetWith off).quirks.logicResetsVf = false) ∧
    (State.resetWith on).quirks.logicResetsVf = true :=
  ⟨⟨rfl, rfl⟩, ⟨rfl, rfl⟩, ⟨rfl, rfl⟩, by decide, by decide, rfl⟩
theorem witness_AdditionsWrapAndCarry : (14 : Reg) ≠ vf := by decide
theorem witness_SubtractionsWrapAndBorrow : (14 : Reg) ≠ vf := by decide
theorem witness_ShiftsMoveOneBitIntoVf : (14 : Reg) ≠ vf ∧
    (5 : Byte) = (if ((State.resetWith on).setReg 2 5).quirks.shiftUsesVy then ((State.resetWith on).setReg 2 5).reg 2
      else ((State.resetWith on).setReg 2 5).reg 1) := by decide
theorem witness_AddIndexWrapsAndItsQuirk : (State.resetWith on).quirks.addiSetsVf = true := rfl

/-! Block accesses that end on the last byte of memory, and ones that pass it by one. -/

theorem witness_BcdStoresThreeDigits : (State.reset.setIndex 0xFFD).dataAddr 2 ≤ 0xFFF := by decide
theorem witness_BlockStoreWritesVZeroToVX : (State.reset.setIndex 0xFF0).dataAddr (15 : Reg).val ≤ 0xFFF := by decide
theorem witness_BlockLoadReadsVZeroToVX : (State.reset.setIndex 0xFFF).dataAddr (0 : Reg).val ≤ 0xFFF := by decide

/-- The state after a block store of all registers to the end of memory. -/
def stored : State := state State.reset (exec (.stRegs 15) (State.reset.setIndex 0xFF0))

theorem witness_BlockStoreThenLoadRoundTrips : (State.reset.setIndex 0xFF0).dataAddr (15 : Reg).val ≤ 0xFFF ∧
    exec (.stRegs 15) (State.reset.setIndex 0xFF0) = .next stored ∧ (stored.setReg 1 9).mem = stored.mem ∧
    (stored.setReg 1 9).index = (State.reset.setIndex 0xFF0).index := ⟨by decide, rfl, rfl, rfl⟩
theorem witness_AccessAboveMemoryFaults : (0xFFE#16).toNat + 2 > 0xFFF ∧ (0xFF1#16).toNat + (15 : Reg).val > 0xFFF ∧
    (0x1000#16).toNat + (0 : Reg).val > 0xFFF ∧ (2#4 ≠ 0) ∧
    (ds6 0).index.toNat + min (2#4).toNat (32 - ((ds6 0).reg 1).toNat % 32) - 1 > 0xFFF := by decide

/-! Draws: no row, one clipped row at the last byte of memory, and a draw repeated. -/

theorem witness_DrawInvertsTheCoveredPixels :
    (0 = min (0#4).toNat (32 - ((ds6 31).reg 1).toNat % 32)) ∧
    (1 = min (2#4).toNat (32 - ((ds6 31).reg 1).toNat % 32) ∧ (ds6 31).dataAddr (1 - 1) ≤ 0xFFF) := by decide

/-- The state after one draw, and after the same draw again. -/
def drawnOnce : State := state ds1 (exec (.drw 0 1 1) ds1)
def drawnTwice : State := state ds1 (exec (.drw 0 1 1) drawnOnce)

theorem witness_DrawingTwiceRestoresTheDisplay : (0 : Reg) ≠ vf ∧ (1 : Reg) ≠ vf ∧ ds1.fault = none ∧
    drawnOnce.fault = none ∧ exec (.drw 0 1 1) ds1 = .next drawnOnce ∧ exec (.drw 0 1 1) drawnOnce = .next drawnTwice ∧
    (∀ py px, ds1.spriteOn 0 1 1 py px = true → ds1.pixel py px = false) :=
  ⟨by decide, by decide, rfl, rfl, rfl, rfl, fun py px _ => by
    simp [ds1, poke, demo, at_, State.withFetchWord, State.storeWord, State.pixel, Display.pixel, State.setMem,
      State.setIndex, State.resetWith, State.setPc, State.fetchable, Vector.get]⟩

/-! Keys: registers 15 and 16; the wait in each of its phases. -/

theorem witness_KeySkipsTestOneKey : ((State.reset.setReg 3 15).reg 3).toNat = (15 : Fin 16).val ∧
    15 < ((State.reset.setReg 3 16).reg 3).toNat ∧ (Instr.skp 3 = .skp 3 ∨ Instr.skp 3 = .sknp 3) := by decide
theorem witness_KeyWaitTakesPressThenRelease :
    ((kt none []).waitKey = none ∧ ∀ k, (kt none []).keyDown k = false) ∧
    ((kt none [7, 15]).waitKey = none ∧ (kt none [7, 15]).keyDown 7 = true ∧
      ∀ j, j < 7 → (kt none [7, 15]).keyDown j = false) ∧
    ((kt (some 15) [15]).waitKey = some 15 ∧ (kt (some 15) [15]).keyDown 15 = true) ∧
    ((kt (some 0) [15]).waitKey = some 0 ∧ (kt (some 0) [15]).keyDown 0 = false) := by decide
theorem witness_KeyWaitOnPressAlone : (∀ k, (kt none []).keyDown k = false) ∧
    ((kt none [15]).keyDown 15 = true ∧ ∀ j, j < 15 → (kt none [15]).keyDown j = false) := by decide
theorem witness_PressAndReleaseCompletesTheWait : (kt none [7, 15]).fault = none ∧ (kt none [7, 15]).waitKey = none ∧
    (kt none [7, 15]).pc.toNat % 2 = 0 ∧ (kt none [7, 15]).pc.toNat ≤ 0xFFE ∧
    decodeWord ((kt none [7, 15]).mem.read (kt none [7, 15]).pc.toNat ++
      (kt none [7, 15]).mem.read ((kt none [7, 15]).pc.toNat + 1)) = some (.ldVxK 2) ∧
    (kt none [7, 15]).keyDown 7 = true ∧ (∀ j, j < 7 → (kt none [7, 15]).keyDown j = false) ∧
    (keysDown [15]).get 7 = false := by decide

end Sys2Proof.Tests
end

section
/-! PROOFS. The quirk configuration (spec/10_state.md R31): replacing it commutes with every shared operation and with every
instruction that does not read the flag replaced, and no transaction but `reset` writes it. -/

namespace Sys2Proof.Machine

/-! ### Replacing the configuration commutes with the shared operations -/

section Operations

variable (s : State) (q : Quirks)

theorem State.setQuirks_self : s.setQuirks s.quirks = s := rfl

theorem State.setQuirks_pop : (s.setQuirks q).pop = s.pop.map fun p => (p.1, p.2.setQuirks q) := by
  unfold State.pop
  rw [apply_dite (Option.map _)]; rfl

theorem State.setQuirks_push (a : Word) : (s.setQuirks q).push a = (s.push a).map fun t => t.setQuirks q := by
  unfold State.push
  rw [apply_dite (Option.map _)]; rfl

theorem State.setQuirks_skipIf (c : Bool) : (s.setQuirks q).skipIf c = (s.skipIf c).setQuirks q := by
  cases c <;> rfl

theorem keyWait_setQuirks (release : Bool) (x : Reg) :
    keyWait release x (s.setQuirks q) = (keyWait release x s).setQuirks q := by
  have hl : (s.setQuirks q).lowestPressed = s.lowestPressed := rfl
  have hd : ∀ k, (s.setQuirks q).keyDown k = s.keyDown k := fun _ => rfl
  cases release with
  | false =>
    simp only [keyWait, keyWaitPress, hl]
    cases s.lowestPressed <;> rfl
  | true =>
    simp only [keyWait, keyWaitRelease, if_true, hl, hd, State.setQuirks_waitKey]
    cases s.waitKey with
    | none => cases s.lowestPressed <;> rfl
    | some k => dsimp only; split <;> rfl

/-! The operations that read a flag, under configurations that agree on it. -/

theorem State.setQuirks_setLogicResult (x : Reg) (b : Byte) (h : s.quirks.logicResetsVf = q.logicResetsVf) :
    (s.setQuirks q).setLogicResult x b = (s.setLogicResult x b).setQuirks q := by
  unfold State.setLogicResult
  rw [State.setQuirks_quirks, ← h]
  split <;> rfl

theorem State.setQuirks_advanceIndex (x : Reg) (h : s.quirks.memAdvancesI = q.memAdvancesI) :
    (s.setQuirks q).advanceIndex x = (s.advanceIndex x).setQuirks q := by
  unfold State.advanceIndex
  rw [State.setQuirks_quirks, ← h]
  split <;> rfl

theorem State.setQuirks_shiftOperand (x y : Reg) (h : s.quirks.shiftUsesVy = q.shiftUsesVy) :
    (s.setQuirks q).shiftOperand x y = s.shiftOperand x y := by
  unfold State.shiftOperand
  rw [State.setQuirks_quirks, ← h]; rfl

theorem State.setQuirks_offsetReg (nnn : BitVec 12) (h : s.quirks.jumpUsesV0 = q.jumpUsesV0) :
    (s.setQuirks q).offsetReg nnn = s.offsetReg nnn := by
  unfold State.offsetReg
  rw [State.setQuirks_quirks, ← h]

end Operations

/-! ### Instructions -/

theorem mapNext_next (f : State → State) (t : State) : mapNext f (.next t) = .next (f t) := rfl

theorem mapNext_ite (f : State → State) (c : Bool) (a b : Result) :
    mapNext f (if c then a else b) = if c then mapNext f a else mapNext f b := apply_ite (mapNext f) _ a b

theorem sameQuirksFor_refl (i : Instr) (q : Quirks) : sameQuirksFor i q q := by
  cases i <;> simp only [sameQuirksFor]

/-- An instruction reads no flag but the one named for it: under a configuration that agrees on that one it has the same
effect on everything else (R31). -/
theorem exec_setQuirks (i : Instr) (s : State) (q : Quirks) (h : sameQuirksFor i s.quirks q) :
    exec i (s.setQuirks q) = mapNext (fun t => t.setQuirks q) (exec i s) := by
  cases i
  case ret =>
    simp only [exec, execRet, State.setQuirks_pop]
    cases s.pop <;> rfl
  case call nnn =>
    simp only [exec, execCall, State.setQuirks_push, State.setQuirks_pc]
    cases s.push s.pc <;> rfl
  case seVxNn | sneVxNn | seVxVy | sneVxVy => exact congrArg Host.Outcome.next (s.setQuirks_skipIf q _)
  case or | and | xor => exact congrArg Host.Outcome.next (s.setQuirks_setLogicResult q _ _ h)
  case shr x y => simp only [exec, execShr, s.setQuirks_shiftOperand q x y h]; rfl
  case shl x y => simp only [exec, execShl, s.setQuirks_shiftOperand q x y h]; rfl
  case jpOff nnn => simp only [exec, execJpOff, s.setQuirks_offsetReg q nnn h]; rfl
  case addI x =>
    have h : s.quirks.addiSetsVf = q.addiSetsVf := h
    simp only [exec, execAddI, State.setQuirks_quirks, ← h]
    cases s.quirks.addiSetsVf <;> rfl
  case drw x y n => simp only [exec, execDrw, mapNext_ite]; rfl
  case ldB x => simp only [exec, execLdB, mapNext_ite]; rfl
  case stRegs x =>
    have ha := (s.setMem (s.mem.writeBytes (s.dataAddr 0) (s.regBlock x))).setQuirks_advanceIndex q x h
    simp only [exec, execStRegs, mapNext_ite, mapNext_next, ← ha]; rfl
  case ldRegs x =>
    have ha := (s.loadRegBlock x).setQuirks_advanceIndex q x h
    simp only [exec, execLdRegs, mapNext_ite, mapNext_next, ← ha]; rfl
  case skp x =>
    simp only [exec, execSkp, State.setQuirks_reg, State.setQuirks_skipIf]
    cases keyOf (s.reg x) <;> rfl
  case sknp x =>
    simp only [exec, execSknp, State.setQuirks_reg, State.setQuirks_skipIf]
    cases keyOf (s.reg x) <;> rfl
  case ldVxK x => exact congrArg Host.Outcome.next (keyWait_setQuirks s q _ x)
  all_goals rfl

/-- An instruction's result carries the configuration it ran under: replacing a configuration by itself changes nothing, so
by `exec_setQuirks` it changes nothing in the result. -/
theorem exec_quirks {i : Instr} {s t : State} (h : exec i s = .next t) : t.quirks = s.quirks := by
  have hself := exec_setQuirks i s s.quirks (sameQuirksFor_refl i s.quirks)
  rw [State.setQuirks_self, h] at hself
  have ht : t = t.setQuirks s.quirks := Host.Outcome.next.inj hself
  rw [ht, State.setQuirks_quirks]

/-! ### Transactions -/

theorem step_quirks {s t : State} (h : step s = .next t) : t.quirks = s.quirks := by
  rcases step_cases s with ⟨-, e⟩ | ⟨-, -, e⟩ | ⟨-, -, -, e⟩ | ⟨-, -, i, -, e⟩ <;> rw [e] at h
  case inr.inr.inr => simpa using exec_quirks h
  all_goals cases h; rfl

theorem stepWith_quirks {rnd : Byte} {s t : State} (h : stepWith rnd s = .next t) : t.quirks = s.quirks := by
  unfold stepWith at h
  split at h
  next u hu => cases h; simpa using step_quirks hu
  all_goals cases h

theorem State.tick_quirks (s : State) : s.tick.quirks = s.quirks := by
  unfold State.tick; split <;> rfl

theorem State.load_quirks (s : State) (bytes : List Byte) : (s.load bytes).quirks = s.quirks := by
  unfold State.load; split <;> rfl

/-- No transaction but `reset` writes the configuration (R31). -/
theorem perform_quirks {tr : Transaction} {s t : State} (hr : ∀ q, tr ≠ .reset q) (h : perform tr s = .next t) :
    t.quirks = s.quirks := by
  cases tr with
  | reset q => exact absurd rfl (hr q)
  | load bytes => cases h; exact s.load_quirks bytes
  | setKeys k => cases h; rfl
  | step rnd => exact stepWith_quirks h
  | tick => cases h; exact s.tick_quirks
  | clearDrawn => cases h; rfl

/-- Settles O15: `reset` stores its argument by definition; the other transactions by `perform_quirks`; the flags an
instruction reads by `exec_setQuirks`. -/
theorem quirkFlagsAreFixedAndLocal : Obligations.QuirkFlagsAreFixedAndLocal :=
  ⟨fun _ => rfl, fun _ _ _ => perform_quirks, exec_setQuirks⟩

end Sys2Proof.Machine
end

section
/-! PROOFS. Control flow (spec/40_control_flow.md R101, R103 to R106): the jump and the four compare-and-skip instructions are
one write of `pc` each. -/

namespace Sys2Proof.Machine

/-- A 12-bit address keeps its value when it is zero-extended (R73). -/
@[simp] theorem addressOf_toNat (nnn : BitVec 12) : (addressOf nnn).toNat = nnn.toNat :=
  BitVec.toNat_setWidth_of_le (by decide)

/-- A write of `pc` leaves every other piece of state as it was; memory is compared by its reads. -/
theorem State.setPc_sameExcept (s : State) (a : Word) : SameExcept [] [.pc] s (s.setPc a) := by
  refine ⟨fun r _ => rfl, fun p hp => ?_⟩
  cases p
  case pc => exact absurd (List.mem_singleton_self _) hp
  case mem => exact fun _ => rfl
  case rnd => exact ⟨rfl, rfl⟩
  all_goals rfl

/-- A skip inside the instruction at `pc0` chooses between the addresses `pc0 + 4` and `pc0 + 2` (R12, R24). -/
theorem State.skipIf_at (s : State) (pc0 : Word) (c : Bool) :
    (s.setPc (pc0 + 2)).skipIf c = s.setPc (if c then pc0 + 4 else pc0 + 2) := by
  cases c with
  | false => rfl
  | true =>
    have h4 : pc0 + 2 + 2 = pc0 + 4 := BitVec.add_assoc pc0 2 2
    exact congrArg s.setPc h4

/-- An instruction that is a skip on the test `c` of the proposition `P` goes to `pc0 + 4` when `P` holds, else to `pc0 + 2`,
and writes nothing else. -/
theorem exec_skip_spec {i : Instr} {s : State} {pc0 : Word} {c : Bool} {P : Prop} [Decidable P]
    (hi : exec i (s.setPc (pc0 + 2)) = .next ((s.setPc (pc0 + 2)).skipIf c)) (hc : c = true ↔ P) :
    ∃ t, exec i (s.setPc (pc0 + 2)) = .next t ∧ t.pc = (if P then pc0 + 4 else pc0 + 2) ∧ SameExcept [] [.pc] s t := by
  rw [State.skipIf_at] at hi
  exact ⟨_, hi, by simp only [State.setPc_pc, hc], s.setPc_sameExcept _⟩

/-- Settles O27: JP is the write of the zero-extended address to `pc`. -/
theorem jpSetsPc : Obligations.JpSetsPc :=
  fun s _ nnn => ⟨s.setPc (addressOf nnn), rfl, addressOf_toNat nnn, s.setPc_sameExcept _⟩

/-- Settles O28: each of the four instructions is a skip, on `==` or on `!=`, so `exec_skip_spec` applies. -/
theorem skipsPassOverOneInstruction : Obligations.SkipsPassOverOneInstruction :=
  fun _ _ _ _ _ => ⟨exec_skip_spec rfl beq_iff_eq, exec_skip_spec rfl bne_iff_ne, exec_skip_spec rfl beq_iff_eq,
    exec_skip_spec rfl bne_iff_ne⟩

end Sys2Proof.Machine
end

section
/-! PROOFS. Immediate and register ALU (spec/41_immediate_and_alu.md R121, R123): the two register loads are one write of
`V[X]` each. -/

namespace Sys2Proof.Machine

/-- A write of one register leaves the other registers and every other piece of state as they were; memory is compared by
its reads. -/
theorem State.setReg_sameExcept (s : State) (x : Reg) (b : Byte) : SameExcept [x] [] s (s.setReg x b) := by
  refine ⟨fun r hr => s.setReg_reg_other x b (List.ne_of_not_mem_cons hr), fun p _ => ?_⟩
  cases p
  case mem => exact fun _ => rfl
  case rnd => exact ⟨rfl, rfl⟩
  all_goals rfl

/-- An instruction that is the write of `b` to `V[X]` leaves `b` there and writes nothing else. -/
theorem exec_setReg_spec {i : Instr} {s : State} {x : Reg} {b : Byte} (hi : exec i s = .next (s.setReg x b)) :
    ∃ t, exec i s = .next t ∧ t.reg x = b ∧ SameExcept [x] [] s t :=
  ⟨_, hi, s.setReg_reg_same x b, s.setReg_sameExcept x b⟩

/-- Settles O34: both loads are a write of `V[X]`, of the immediate or of the old `V[Y]`, so `exec_setReg_spec` applies. -/
theorem registerLoadsWriteOneRegister : Obligations.RegisterLoadsWriteOneRegister :=
  fun _ _ _ _ => ⟨exec_setReg_spec rfl, exec_setReg_spec rfl⟩

end Sys2Proof.Machine
end

section
/-! PROOFS. Index register and memory (spec/42_index_and_memory.md R141, R143): the two index loads are one write of `I`
each. -/

namespace Sys2Proof.Machine

/-- The glyph address is the font's base and five bytes for each digit below the low nibble's (R143); the largest, 0x9B, is
far below the wrap of the 16-bit `I`. -/
@[simp] theorem glyphAddr_toNat (b : Byte) : (glyphAddr b).toNat = 0x0050 + 5 * (b.toNat % 16) := by
  have hnibble : (b &&& 0x0F).toNat = b.toNat % 16 := Nat.and_two_pow_sub_one_eq_mod b.toNat 4
  rw [glyphAddr, Config.fontBase, Config.glyphLen, hnibble, BitVec.toNat_ofNat]
  omega

/-- A write of `I` leaves every other piece of state as it was; memory is compared by its reads. -/
theorem State.setIndex_sameExcept (s : State) (a : Word) : SameExcept [] [.index] s (s.setIndex a) := by
  refine ⟨fun _ _ => rfl, fun p hp => ?_⟩
  cases p
  case index => exact absurd (List.mem_singleton_self _) hp
  case mem => exact fun _ => rfl
  case rnd => exact ⟨rfl, rfl⟩
  all_goals rfl

/-- Settles O39: both loads are a write of `I`, of the zero-extended address or of the glyph's address. -/
theorem indexLoadsWriteOnlyI : Obligations.IndexLoadsWriteOnlyI :=
  fun s x nnn => ⟨⟨s.setIndex (addressOf nnn), rfl, addressOf_toNat nnn, s.setIndex_sameExcept _⟩,
    ⟨s.setIndex (glyphAddr (s.reg x)), rfl, glyphAddr_toNat (s.reg x), s.setIndex_sameExcept _⟩⟩

end Sys2Proof.Machine
end

section
/-! PROOFS. Timers (spec/44_keys_timers_random.md R173 to R175): LD_VX_DT is one write of `V[X]`, and the two timer stores
are one write of `DT` or of `ST`. -/

namespace Sys2Proof.Machine

/-- A write of both timers leaves a piece of state as it was, a timer when it is given its old value; memory is compared by
its reads. -/
theorem State.setDt_setSt_same {s : State} {d e : Byte} {p : Piece} (hd : p = .dt → d = s.dt) (he : p = .st → e = s.st) :
    p.same s ((s.setDt d).setSt e) := by
  cases p
  case dt => exact hd rfl
  case st => exact he rfl
  case mem => exact fun _ => rfl
  case rnd => exact ⟨rfl, rfl⟩
  all_goals rfl

/-- A write of `DT` is a write of both timers that gives `ST` its old value. -/
theorem State.setDt_sameExcept (s : State) (b : Byte) : SameExcept [] [.dt] s (s.setDt b) :=
  ⟨fun _ _ => rfl, fun _ hp =>
    State.setDt_setSt_same (d := b) (e := s.st) (fun h => absurd (List.mem_singleton.mpr h) hp) (fun _ => rfl)⟩

/-- A write of `ST` is a write of both timers that gives `DT` its old value. -/
theorem State.setSt_sameExcept (s : State) (b : Byte) : SameExcept [] [.st] s (s.setSt b) :=
  ⟨fun _ _ => rfl, fun _ hp =>
    State.setDt_setSt_same (d := s.dt) (e := b) (fun _ => rfl) (fun h => absurd (List.mem_singleton.mpr h) hp)⟩

/-- Settles O53: the timer load is a write of `V[X]`, so `exec_setReg_spec` applies; each timer store is a write of its timer,
whose frame lemma applies. -/
theorem timerInstructionsMoveOneByte : Obligations.TimerInstructionsMoveOneByte :=
  fun s x => ⟨exec_setReg_spec rfl, ⟨s.setDt (s.reg x), rfl, s.setDt_dt _, s.setDt_sameExcept _⟩,
    ⟨s.setSt (s.reg x), rfl, s.setSt_st _, s.setSt_sameExcept _⟩⟩

end Sys2Proof.Machine
end

section
/-! PROOFS. Stack faults (spec/60_exceptions.md R203, R204): the fault table lists both kinds, and an instruction raises the
fault the table gives. -/

namespace Sys2Proof.Machine

/-- An instruction with a fault due raises that fault: the other way of `exec_cases` completes only when none is due. -/
theorem exec_eq_raiseFault {i : Instr} {s : State} {k : FaultKind} (hdue : s.instrFaultDue i = some k) :
    exec i s = raiseFault k i s := by
  rcases exec_cases s i with ⟨k', hk', hexec⟩ | ⟨hnone, _⟩
  · obtain rfl : k' = k := Option.some.inj (hk'.symm.trans hdue)
    exact hexec
  · rw [hnone] at hdue
    cases hdue

/-- An instruction with a fault due answers a state that holds a record of its kind (R208). -/
theorem exec_latches_fault {i : Instr} {s : State} {k : FaultKind} (hdue : s.instrFaultDue i = some k) :
    ∃ t f, exec i s = .next t ∧ t.fault = some f ∧ f.kind = k :=
  ⟨_, _, (exec_eq_raiseFault hdue).trans (raiseFault_eq s k i), s.latchFault_fault k _ _, rfl⟩

/-- Settles O31: at `sp = 64` the fault table gives StackOverflow for CALL, at `sp = 0` StackUnderflow for RET, so
`exec_latches_fault` applies. -/
theorem stackLimitsRaiseTheirFaults : Obligations.StackLimitsRaiseTheirFaults :=
  fun _ _ => ⟨fun hfull => exec_latches_fault (if_pos hfull), fun hempty => exec_latches_fault (if_pos hempty)⟩

end Sys2Proof.Machine
end

section
/-! PROOFS. Loading an image (spec/70_reset_and_hazards.md R233): before the first step the length alone decides the status,
and a load that succeeds is one block write of memory. -/

namespace Sys2Proof.Machine

/-- Inside a block written in ascending order, the byte at offset `i` is the `i`-th one written (R52). -/
theorem Memory.read_writeBytes_inside (bytes : List Byte) (m : Memory) (a i : Nat) (h : i < bytes.length) :
    (m.writeBytes a bytes).read (a + i) = bytes[i] := by
  rw [Memory.read_writeBytes, dif_pos ⟨Nat.le_add_right a i, Nat.add_lt_add_left h a⟩]
  simp only [Nat.add_sub_cancel_left]

/-- A write of memory leaves every other piece of state as it was. -/
theorem State.setMem_sameExcept (s : State) (m : Memory) : SameExcept [] [.mem] s (s.setMem m) := by
  refine ⟨fun _ _ => rfl, fun p hp => ?_⟩
  cases p
  case mem => exact absurd (List.mem_singleton_self _) hp
  case rnd => exact ⟨rfl, rfl⟩
  all_goals rfl

section Load

variable {s : State} {bytes : List Byte}

/-- Before the first step an image that fits is accepted (R233, R234). -/
theorem State.loadStatus_eq_ok (hs : s.started = false) (hfit : bytes.length ≤ Config.imageMax) :
    s.loadStatus bytes = .ok := by
  rw [State.loadStatus, hs, if_neg Bool.false_ne_true, if_neg (Nat.not_lt.mpr hfit)]

/-- Before the first step an image that does not fit is too large (R233, R234). -/
theorem State.loadStatus_eq_imageTooLarge (hs : s.started = false) (hlong : Config.imageMax < bytes.length) :
    s.loadStatus bytes = .imageTooLarge := by
  rw [State.loadStatus, hs, if_neg Bool.false_ne_true, if_pos hlong]

/-- A load that succeeds writes the image as one block at the entry address. -/
theorem State.load_of_ok (h : s.loadStatus bytes = .ok) :
    s.load bytes = s.setMem (s.mem.writeBytes Config.entry bytes) := by
  rw [State.load, h]

/-- A load that fails or is refused changes nothing. -/
theorem State.load_of_ne_ok (h : s.loadStatus bytes ≠ .ok) : s.load bytes = s := by
  unfold State.load
  split
  case h_1 hok => exact absurd hok h
  all_goals rfl

end Load

/-- Settles O20: an image that fits is one block write at 0x200, read back by the rules of `Memory.writeBytes`; a longer one
is too large, so the load changes nothing. -/
theorem loadCopiesTheImageOrChangesNothing : Obligations.LoadCopiesTheImageOrChangesNothing := by
  intro s bytes hs
  constructor
  · intro hfit
    have hok : s.loadStatus bytes = .ok := State.loadStatus_eq_ok hs hfit
    rw [State.load_of_ok hok]
    refine ⟨hok, fun i hi => s.mem.read_writeBytes_inside bytes _ i hi, fun a ha => ?_, s.setMem_sameExcept _⟩
    exact s.mem.read_writeBytes_outside bytes 0x200 a (by omega)
  · intro hlong
    have htoo : s.loadStatus bytes = .imageTooLarge := State.loadStatus_eq_imageTooLarge hs hlong
    exact ⟨htoo, State.load_of_ne_ok (by rw [htoo]; decide)⟩

end Sys2Proof.Machine
end

section
/-! PROOFS. Encoding and decoding (spec/30_encoding.md sections 2 to 5): the decoder and the encoder are inverse to each other,
both agree with the opcode map, and the words that decode to nothing are the listed sets. -/

namespace Sys2Proof

/-! ### Decoding an encoded instruction -/

/-- A row count that fits its field is read back from it (R73). -/
theorem rowCount_toNat {n : Nat} (h : n < 16) : (BitVec.ofNat 4 n).toNat = n := by
  rw [BitVec.toNat_ofNat, Nat.mod_eq_of_lt h]

/-- The fields of an encoded word are its operands, so the dispatch on `op`, and after it on the low nibble or the low byte,
comes back to the instruction (R74, R77). -/
theorem decodeWord_encode {i : Instr} (h : i.wellFormed = true) : decodeWord (encode i) = some i := by
  cases i
  case cls | ret => decide
  case drw x y n => simp [encode, decodeWord, rowCount_toNat (of_decide_eq_true h)]
  case ldVxVy | or | and | xor | addVxVy | sub | shr | subn | shl => simp [encode, decodeWord, decodeAlu]
  case skp | sknp => simp [encode, decodeWord, decodeKey]
  case ldVxDt | ldVxK | ldDtVx | ldStVx | addI | ldF | ldB | stRegs | ldRegs =>
    simp [encode, decodeWord, decodeFunction]
  all_goals simp [encode, decodeWord]

/-- A word that is the encoding of a well-formed instruction decodes to it. -/
theorem decodeWord_of_encode_eq {i : Instr} {w : Word} (hi : i.wellFormed = true) (h : encode i = w) :
    decodeWord w = some i := by
  rw [← h, decodeWord_encode hi]

/-- Settles O1: the word by `decodeWord_encode`; its two bytes make that word again (R52). -/
theorem decodeOfEncodeIsTheInstruction : Obligations.DecodeOfEncodeIsTheInstruction := by
  intro i rest h
  refine ⟨decodeWord_encode h, decodeBytes_of_word rest ?_⟩
  rw [wordOfBytes_hiByte_loByte, decodeWord_encode h]

/-! ### Encoding a decoded instruction

A word whose selecting fields are known is the format's word of its other fields. -/

section Fields

variable {w : Word} {op : BitVec 4}

theorem encodeA_of_op (hop : opOf w = op) : encodeA op (nnnOf w) = w := by
  rw [← hop, encodeA_fields]

theorem encodeXI_of_op (hop : opOf w = op) : encodeXI op (xOf w) (nnOf w) = w := by
  rw [← hop, encodeXI_fields]

theorem encodeXY_of_op_low {low : BitVec 4} (hop : opOf w = op) (hlow : nOf w = low) :
    encodeXY op (xOf w) (yOf w) low = w := by
  rw [← hop, ← hlow, encodeXY_fields]

theorem encodeXF_of_op_fn {fn : Byte} (hop : opOf w = op) (hfn : nnOf w = fn) : encodeXF op (xOf w) fn = w := by
  rw [← hfn, encodeXF_eq, encodeXI_of_op hop]

end Fields

/-- What the four sub-decoders and the dispatch are to give: a well-formed instruction whose word is `w`. -/
def IsWordOf (w : Word) (i : Instr) : Prop := i.wellFormed = true ∧ encode i = w

theorem isWordOf_of_decodeZero {w : Word} {i : Instr} (h : decodeZero w = some i) : IsWordOf w i := by
  unfold decodeZero at h
  split at h
  next hw => cases h; exact ⟨rfl, hw.symm⟩
  next =>
    split at h
    next hw => cases h; exact ⟨rfl, hw.symm⟩
    next => cases h

theorem isWordOf_of_decodeAlu {w : Word} {i : Instr} (hop : opOf w = 0x8#4) (h : decodeAlu w = some i) :
    IsWordOf w i := by
  unfold decodeAlu at h
  split at h
  case h_10 => cases h
  all_goals cases h; exact ⟨rfl, encodeXY_of_op_low hop ‹_›⟩

theorem isWordOf_of_decodeKey {w : Word} {i : Instr} (hop : opOf w = 0xE#4) (h : decodeKey w = some i) :
    IsWordOf w i := by
  unfold decodeKey at h
  split at h
  case h_3 => cases h
  all_goals cases h; exact ⟨rfl, encodeXF_of_op_fn hop ‹_›⟩

theorem isWordOf_of_decodeFunction {w : Word} {i : Instr} (hop : opOf w = 0xF#4) (h : decodeFunction w = some i) :
    IsWordOf w i := by
  unfold decodeFunction at h
  split at h
  case h_10 => cases h
  all_goals cases h; exact ⟨rfl, encodeXF_of_op_fn hop ‹_›⟩

/-- A decoded word is the word of its instruction: the selecting fields are known from the branch taken, and the others are
the operands (R74, R77). -/
theorem isWordOf_of_decodeWord {w : Word} {i : Instr} (h : decodeWord w = some i) : IsWordOf w i := by
  unfold decodeWord at h
  split at h <;> rename_i hop
  case h_1 => exact isWordOf_of_decodeZero h
  case h_9 => exact isWordOf_of_decodeAlu hop h
  case h_15 => exact isWordOf_of_decodeKey hop h
  case h_16 => exact isWordOf_of_decodeFunction hop h
  case h_2 | h_3 | h_11 | h_12 => cases h; exact ⟨rfl, encodeA_of_op hop⟩
  case h_4 | h_5 | h_7 | h_8 | h_13 => cases h; exact ⟨rfl, encodeXI_of_op hop⟩
  case h_6 | h_10 =>
    split at h
    next hlow => cases h; exact ⟨rfl, encodeXY_of_op_low hop hlow⟩
    next => cases h
  case h_14 =>
    cases h
    exact ⟨decide_eq_true (nOf w).isLt, encodeXY_of_op_low hop (by simp)⟩
  case h_17 => cases h

/-- The word of a decoded instruction (R74). -/
theorem encode_of_decodeWord {w : Word} {i : Instr} (h : decodeWord w = some i) : encode i = w :=
  (isWordOf_of_decodeWord h).2

/-- Settles O2: `isWordOf_of_decodeWord`, which follows the dispatch. -/
theorem encodeOfDecodeIsTheWord : Obligations.EncodeOfDecodeIsTheWord :=
  fun _ _ => isWordOf_of_decodeWord

/-! ### The opcode map -/

open Sys2Proof.Laws in
/-- The word of every instruction matches its row of the opcode map (R75). -/
theorem encode_matches_row (i : Instr) : encode i &&& (rowOf i).mask = (rowOf i).pattern := by
  have h : EncodingMatchesRow.Statement i := by
    cases i
    case cls => exact EncodingMatchesRow.cls
    case ret => exact EncodingMatchesRow.ret
    case jp nnn => exact EncodingMatchesRow.jp nnn
    case call nnn => exact EncodingMatchesRow.call nnn
    case seVxNn x nn => exact EncodingMatchesRow.seVxNn x nn
    case sneVxNn x nn => exact EncodingMatchesRow.sneVxNn x nn
    case seVxVy x y => exact EncodingMatchesRow.seVxVy x y
    case ldVxNn x nn => exact EncodingMatchesRow.ldVxNn x nn
    case addVxNn x nn => exact EncodingMatchesRow.addVxNn x nn
    case ldVxVy x y => exact EncodingMatchesRow.ldVxVy x y
    case or x y => exact EncodingMatchesRow.or x y
    case and x y => exact EncodingMatchesRow.and x y
    case xor x y => exact EncodingMatchesRow.xor x y
    case addVxVy x y => exact EncodingMatchesRow.addVxVy x y
    case sub x y => exact EncodingMatchesRow.sub x y
    case shr x y => exact EncodingMatchesRow.shr x y
    case subn x y => exact EncodingMatchesRow.subn x y
    case shl x y => exact EncodingMatchesRow.shl x y
    case sneVxVy x y => exact EncodingMatchesRow.sneVxVy x y
    case ldI nnn => exact EncodingMatchesRow.ldI nnn
    case jpOff nnn => exact EncodingMatchesRow.jpOff nnn
    case rnd x nn => exact EncodingMatchesRow.rnd x nn
    case drw x y n => exact EncodingMatchesRow.drw x y n
    case skp x => exact EncodingMatchesRow.skp x
    case sknp x => exact EncodingMatchesRow.sknp x
    case ldVxDt x => exact EncodingMatchesRow.ldVxDt x
    case ldVxK x => exact EncodingMatchesRow.ldVxK x
    case ldDtVx x => exact EncodingMatchesRow.ldDtVx x
    case ldStVx x => exact EncodingMatchesRow.ldStVx x
    case addI x => exact EncodingMatchesRow.addI x
    case ldF x => exact EncodingMatchesRow.ldF x
    case ldB x => exact EncodingMatchesRow.ldB x
    case stRegs x => exact EncodingMatchesRow.stRegs x
    case ldRegs x => exact EncodingMatchesRow.ldRegs x
  exact beq_iff_eq.mp h

theorem rowOf_mem_opcodeRows (i : Instr) : rowOf i ∈ opcodeRows := by
  cases i <;> exact of_decide_eq_true rfl

/-! A word under a mask of R75 gives the fields the mask keeps (R74): the top nibble under all of them, the low nibble under
0xF00F, the low byte under 0xF0FF. -/

section Masks

variable {w pattern : Word}

theorem opOf_and (w m : Word) : opOf (w &&& m) = opOf w &&& opOf m := BitVec.extractLsb'_and ..

theorem nOf_and (w m : Word) : nOf (w &&& m) = nOf w &&& nOf m := BitVec.extractLsb'_and ..

theorem nnOf_and (w m : Word) : nnOf (w &&& m) = nnOf w &&& nnOf m := BitVec.extractLsb'_and ..

theorem opOf_of_F000 (h : w &&& 0xF000 = pattern) : opOf w = opOf pattern := by
  rw [← h, opOf_and]; exact BitVec.and_allOnes.symm

theorem opOf_of_F00F (h : w &&& 0xF00F = pattern) : opOf w = opOf pattern := by
  rw [← h, opOf_and]; exact BitVec.and_allOnes.symm

theorem nOf_of_F00F (h : w &&& 0xF00F = pattern) : nOf w = nOf pattern := by
  rw [← h, nOf_and]; exact BitVec.and_allOnes.symm

theorem opOf_of_F0FF (h : w &&& 0xF0FF = pattern) : opOf w = opOf pattern := by
  rw [← h, opOf_and]; exact BitVec.and_allOnes.symm

theorem nnOf_of_F0FF (h : w &&& 0xF0FF = pattern) : nnOf w = nnOf pattern := by
  rw [← h, nnOf_and]; exact BitVec.and_allOnes.symm

theorem eq_of_FFFF (h : w &&& 0xFFFF = pattern) : w = pattern := by
  rw [← h]; exact BitVec.and_allOnes.symm

end Masks

/-- The word is that of some well-formed instruction of the row. -/
def HasInstrOfRow (w : Word) (r : OpcodeRow) : Prop := ∃ i, IsWordOf w i ∧ rowOf i = r

section Rows

variable {w : Word} {r : OpcodeRow}

theorem hasInstrOfRow_control (hr : r ∈ controlRows) (h : w &&& r.mask = r.pattern) : HasInstrOfRow w r := by
  simp only [controlRows, List.mem_cons, List.not_mem_nil, or_false] at hr
  rcases hr with rfl | rfl | rfl | rfl | rfl | rfl | rfl
  · exact ⟨.cls, ⟨rfl, (eq_of_FFFF h).symm⟩, rfl⟩
  · exact ⟨.ret, ⟨rfl, (eq_of_FFFF h).symm⟩, rfl⟩
  · exact ⟨.jp (nnnOf w), ⟨rfl, encodeA_of_op (opOf_of_F000 h)⟩, rfl⟩
  · exact ⟨.call (nnnOf w), ⟨rfl, encodeA_of_op (opOf_of_F000 h)⟩, rfl⟩
  · exact ⟨.seVxNn (xOf w) (nnOf w), ⟨rfl, encodeXI_of_op (opOf_of_F000 h)⟩, rfl⟩
  · exact ⟨.sneVxNn (xOf w) (nnOf w), ⟨rfl, encodeXI_of_op (opOf_of_F000 h)⟩, rfl⟩
  · exact ⟨.seVxVy (xOf w) (yOf w), ⟨rfl, encodeXY_of_op_low (opOf_of_F00F h) (nOf_of_F00F h)⟩, rfl⟩

theorem hasInstrOfRow_immediate (hr : r ∈ immediateRows) (h : w &&& r.mask = r.pattern) : HasInstrOfRow w r := by
  simp only [immediateRows, List.mem_cons, List.not_mem_nil, or_false] at hr
  rcases hr with rfl | rfl
  · exact ⟨.ldVxNn (xOf w) (nnOf w), ⟨rfl, encodeXI_of_op (opOf_of_F000 h)⟩, rfl⟩
  · exact ⟨.addVxNn (xOf w) (nnOf w), ⟨rfl, encodeXI_of_op (opOf_of_F000 h)⟩, rfl⟩

/-- The nine rows of op 8 have one mask; the low nibble tells them apart. -/
theorem hasInstrOfRow_alu (hr : r ∈ aluRows) (h : w &&& r.mask = r.pattern) : HasInstrOfRow w r := by
  simp only [aluRows, List.mem_cons, List.not_mem_nil, or_false] at hr
  rcases hr with rfl | rfl | rfl | rfl | rfl | rfl | rfl | rfl | rfl <;>
    have hw := encodeXY_of_op_low (opOf_of_F00F h) (nOf_of_F00F h)
  · exact ⟨.ldVxVy (xOf w) (yOf w), ⟨rfl, hw⟩, rfl⟩
  · exact ⟨.or (xOf w) (yOf w), ⟨rfl, hw⟩, rfl⟩
  · exact ⟨.and (xOf w) (yOf w), ⟨rfl, hw⟩, rfl⟩
  · exact ⟨.xor (xOf w) (yOf w), ⟨rfl, hw⟩, rfl⟩
  · exact ⟨.addVxVy (xOf w) (yOf w), ⟨rfl, hw⟩, rfl⟩
  · exact ⟨.sub (xOf w) (yOf w), ⟨rfl, hw⟩, rfl⟩
  · exact ⟨.shr (xOf w) (yOf w), ⟨rfl, hw⟩, rfl⟩
  · exact ⟨.subn (xOf w) (yOf w), ⟨rfl, hw⟩, rfl⟩
  · exact ⟨.shl (xOf w) (yOf w), ⟨rfl, hw⟩, rfl⟩

theorem hasInstrOfRow_address (hr : r ∈ addressRows) (h : w &&& r.mask = r.pattern) : HasInstrOfRow w r := by
  simp only [addressRows, List.mem_cons, List.not_mem_nil, or_false] at hr
  rcases hr with rfl | rfl | rfl | rfl | rfl
  · exact ⟨.sneVxVy (xOf w) (yOf w), ⟨rfl, encodeXY_of_op_low (opOf_of_F00F h) (nOf_of_F00F h)⟩, rfl⟩
  · exact ⟨.ldI (nnnOf w), ⟨rfl, encodeA_of_op (opOf_of_F000 h)⟩, rfl⟩
  · exact ⟨.jpOff (nnnOf w), ⟨rfl, encodeA_of_op (opOf_of_F000 h)⟩, rfl⟩
  · exact ⟨.rnd (xOf w) (nnOf w), ⟨rfl, encodeXI_of_op (opOf_of_F000 h)⟩, rfl⟩
  · exact ⟨.drw (xOf w) (yOf w) (nOf w).toNat,
      ⟨decide_eq_true (nOf w).isLt, encodeXY_of_op_low (opOf_of_F000 h) (by simp)⟩, rfl⟩

theorem hasInstrOfRow_key (hr : r ∈ keyRows) (h : w &&& r.mask = r.pattern) : HasInstrOfRow w r := by
  simp only [keyRows, List.mem_cons, List.not_mem_nil, or_false] at hr
  rcases hr with rfl | rfl <;> have hw := encodeXF_of_op_fn (opOf_of_F0FF h) (nnOf_of_F0FF h)
  · exact ⟨.skp (xOf w), ⟨rfl, hw⟩, rfl⟩
  · exact ⟨.sknp (xOf w), ⟨rfl, hw⟩, rfl⟩

/-- The nine rows of op 0xF have one mask; the low byte tells them apart. -/
theorem hasInstrOfRow_function (hr : r ∈ functionRows) (h : w &&& r.mask = r.pattern) : HasInstrOfRow w r := by
  simp only [functionRows, List.mem_cons, List.not_mem_nil, or_false] at hr
  rcases hr with rfl | rfl | rfl | rfl | rfl | rfl | rfl | rfl | rfl <;>
    have hw := encodeXF_of_op_fn (opOf_of_F0FF h) (nnOf_of_F0FF h)
  · exact ⟨.ldVxDt (xOf w), ⟨rfl, hw⟩, rfl⟩
  · exact ⟨.ldVxK (xOf w), ⟨rfl, hw⟩, rfl⟩
  · exact ⟨.ldDtVx (xOf w), ⟨rfl, hw⟩, rfl⟩
  · exact ⟨.ldStVx (xOf w), ⟨rfl, hw⟩, rfl⟩
  · exact ⟨.addI (xOf w), ⟨rfl, hw⟩, rfl⟩
  · exact ⟨.ldF (xOf w), ⟨rfl, hw⟩, rfl⟩
  · exact ⟨.ldB (xOf w), ⟨rfl, hw⟩, rfl⟩
  · exact ⟨.stRegs (xOf w), ⟨rfl, hw⟩, rfl⟩
  · exact ⟨.ldRegs (xOf w), ⟨rfl, hw⟩, rfl⟩

/-- A word that matches a row of the opcode map is the word of an instruction of that row (R74, R75). -/
theorem hasInstrOfRow_of_matches (hr : r ∈ opcodeRows) (h : w &&& r.mask = r.pattern) : HasInstrOfRow w r := by
  simp only [opcodeRows, List.mem_append] at hr
  rcases hr with ((((hr | hr) | hr) | hr) | hr) | hr
  · exact hasInstrOfRow_control hr h
  · exact hasInstrOfRow_immediate hr h
  · exact hasInstrOfRow_alu hr h
  · exact hasInstrOfRow_address hr h
  · exact hasInstrOfRow_key hr h
  · exact hasInstrOfRow_function hr h

end Rows

/-- Settles O3: a decoded word is its instruction's, which matches its row; a word that matches a row is the word of an
instruction of that row, which it therefore decodes to. -/
theorem decodeAgreesWithTheOpcodeMap : Obligations.DecodeAgreesWithTheOpcodeMap := by
  intro w
  constructor
  · intro i h
    rw [← encode_of_decodeWord h]
    exact ⟨rowOf_mem_opcodeRows i, encode_matches_row i⟩
  · intro r hr h
    obtain ⟨i, ⟨hwf, hw⟩, hrow⟩ := hasInstrOfRow_of_matches hr h
    exact ⟨i, decodeWord_of_encode_eq hwf hw, hrow⟩

/-! ### The illegal words (R76) -/

theorem opOf_toNat (w : Word) : (opOf w).toNat = w.toNat / 4096 := by
  have := w.isLt
  rw [opOf, BitVec.extractLsb'_toNat, Nat.shiftRight_eq_div_pow]; omega

theorem nOf_toNat (w : Word) : (nOf w).toNat = w.toNat % 16 := BitVec.extractLsb'_toNat ..

theorem nnOf_toNat (w : Word) : (nnOf w).toNat = w.toNat % 256 := BitVec.extractLsb'_toNat ..

theorem opOf_eq_iff (w : Word) (c : BitVec 4) : opOf w = c ↔ w.toNat / 4096 = c.toNat := by
  rw [← BitVec.toNat_inj, opOf_toNat]

theorem nOf_eq_iff (w : Word) (c : BitVec 4) : nOf w = c ↔ w.toNat % 16 = c.toNat := by
  rw [← BitVec.toNat_inj, nOf_toNat]

theorem nnOf_eq_iff (w : Word) (c : Byte) : nnOf w = c ↔ w.toNat % 256 = c.toNat := by
  rw [← BitVec.toNat_inj, nnOf_toNat]

theorem decodeZero_eq_none_iff (w : Word) : decodeZero w = none ↔ w.toNat ≠ 0x00E0 ∧ w.toNat ≠ 0x00EE := by
  have h0 : w = 0x00E0#16 ↔ w.toNat = 0x00E0 := BitVec.toNat_inj.symm
  have h1 : w = 0x00EE#16 ↔ w.toNat = 0x00EE := BitVec.toNat_inj.symm
  rw [ne_eq, ne_eq, ← h0, ← h1, ← not_or]
  unfold decodeZero
  split
  next hcls => simp [hcls]
  next hcls =>
    split
    next hret => simp [hret]
    next hret => simp only [hcls, hret, or_self, not_false_eq_true]

theorem decodeAlu_eq_none_iff (w : Word) :
    decodeAlu w = none ↔ w.toNat % 16 ∈ [8, 9, 0xA, 0xB, 0xC, 0xD, 0xF] := by
  have hlt := (nOf w).isLt
  rw [← nOf_toNat]
  unfold decodeAlu
  split
  case h_10 => simp_all [← BitVec.toNat_inj]; omega
  all_goals simp [*]

theorem decodeKey_eq_none_iff (w : Word) : decodeKey w = none ↔ w.toNat % 256 ∉ [0x9E, 0xA1] := by
  rw [← nnOf_toNat]
  unfold decodeKey
  split <;> simp_all [← BitVec.toNat_inj]

theorem decodeFunction_eq_none_iff (w : Word) :
    decodeFunction w = none ↔ w.toNat % 256 ∉ [0x07, 0x0A, 0x15, 0x18, 0x1E, 0x29, 0x33, 0x55, 0x65] := by
  rw [← nnOf_toNat]
  unfold decodeFunction
  split <;> simp_all [← BitVec.toNat_inj]

theorem decodeWord_eq_none_iff (w : Word) : decodeWord w = none ↔
    (opOf w = 0x0#4 ∧ decodeZero w = none) ∨ (opOf w = 0x5#4 ∧ nOf w ≠ 0#4) ∨ (opOf w = 0x8#4 ∧ decodeAlu w = none) ∨
    (opOf w = 0x9#4 ∧ nOf w ≠ 0#4) ∨ (opOf w = 0xE#4 ∧ decodeKey w = none) ∨
    (opOf w = 0xF#4 ∧ decodeFunction w = none) := by
  have hlt := (opOf w).isLt
  unfold decodeWord
  split
  case h_17 => simp_all [← BitVec.toNat_inj]; omega
  all_goals simp [*]

/-- Settles O4: only six ways of the dispatch can answer nothing, each on the set of its sub-decoder. -/
theorem illegalWordsAreTheListedSets : Obligations.IllegalWordsAreTheListedSets := by
  intro w
  rw [decodeWord_eq_none_iff, decodeZero_eq_none_iff, decodeAlu_eq_none_iff, decodeKey_eq_none_iff,
    decodeFunction_eq_none_iff]
  simp only [ne_eq, opOf_eq_iff, nOf_eq_iff]
  exact Iff.rfl

/-- Settles O5: each word is the encoding of its instruction, which `decodeWord_of_encode_eq` reads back. -/
theorem writtenOutWordsDecode : Obligations.WrittenOutWordsDecode := by
  refine ⟨?_, ?_, ?_, ?_, ?_, ?_, ?_, ?_, ?_⟩ <;> exact decodeWord_of_encode_eq rfl rfl

end Sys2Proof
end

section
/-! PROOFS. Who writes what (spec/10_state.md section 14): frames of the shared operations, their composition, and from them
the frame of every instruction. -/

namespace Sys2Proof.Machine

/-! ### Composing frames -/

theorem Piece.same_trans {p : Piece} {s t u : State} (h : p.same s t) (k : p.same t u) : p.same s u := by
  cases p
  case mem => exact fun a => (k a).trans (h a)
  case rnd => exact ⟨k.1.trans h.1, k.2.trans h.2⟩
  all_goals exact Eq.trans k h

theorem SameExcept.refl (s : State) : SameExcept [] [] s s := by
  refine ⟨fun _ _ => rfl, fun p _ => ?_⟩
  cases p
  case mem => exact fun _ => rfl
  case rnd => exact ⟨rfl, rfl⟩
  all_goals rfl

section Frames

variable {s t u : State} {regs regs' : List Reg} {parts parts' : List Piece}

theorem SameExcept.trans (h : SameExcept regs parts s t) (k : SameExcept regs' parts' t u) :
    SameExcept (regs ++ regs') (parts ++ parts') s u := by
  obtain ⟨hreg, hpiece⟩ := h
  obtain ⟨kreg, kpiece⟩ := k
  refine ⟨fun r hr => ?_, fun p hp => ?_⟩
  · rw [List.mem_append, not_or] at hr
    exact (kreg r hr.2).trans (hreg r hr.1)
  · rw [List.mem_append, not_or] at hp
    exact Piece.same_trans (hpiece p hp.1) (kpiece p hp.2)

theorem SameExcept.mono (h : SameExcept regs parts s t) (hr : regs ⊆ regs') (hp : parts ⊆ parts') :
    SameExcept regs' parts' s t :=
  ⟨fun r hn => h.1 r fun hm => hn (hr hm), fun p hn => h.2 p fun hm => hn (hp hm)⟩

/-- A change of pieces the frame names, made before it, adds nothing to the frame. -/
theorem SameExcept.congr_left {s₀ : State} (h₀ : SameExcept [] parts s s₀) (h : SameExcept regs parts s₀ t) :
    SameExcept regs parts s t :=
  (h₀.trans h).mono (List.Subset.refl _) (by simp)

end Frames

/-! ### Frames of the shared operations -/

section Operations

variable (s : State)

theorem State.setDisp_sameExcept (d : Display) : SameExcept [] [.disp] s (s.setDisp d) :=
  ⟨fun _ _ => rfl, fun p _ => by cases p <;> simp_all [Piece.same]⟩

theorem State.setWaitKey_sameExcept (k : Option (Fin 16)) : SameExcept [] [.waitKey] s (s.setWaitKey k) :=
  ⟨fun _ _ => rfl, fun p _ => by cases p <;> simp_all [Piece.same]⟩

theorem State.setStack_sameExcept (a : Vector Word 64) : SameExcept [] [.stack] s (s.setStack a) :=
  ⟨fun _ _ => rfl, fun p _ => by cases p <;> simp_all [Piece.same]⟩

theorem State.setSp_sameExcept (n : Fin 65) : SameExcept [] [.sp] s (s.setSp n) :=
  ⟨fun _ _ => rfl, fun p _ => by cases p <;> simp_all [Piece.same]⟩

theorem State.setDrawn_sameExcept (b : Bool) : SameExcept [] [.drawn] s (s.setDrawn b) :=
  ⟨fun _ _ => rfl, fun p _ => by cases p <;> simp_all [Piece.same]⟩

theorem State.setFault_sameExcept (f : Option FaultRecord) : SameExcept [] [.fault] s (s.setFault f) :=
  ⟨fun _ _ => rfl, fun p _ => by cases p <;> simp_all [Piece.same]⟩

theorem State.setRnd_sameExcept (a : Option Byte) (n : Nat) : SameExcept [] [.rnd] s (s.setRnd a n) :=
  ⟨fun _ _ => rfl, fun p _ => by cases p <;> simp_all [Piece.same]⟩

theorem State.setKeys_sameExcept (k : Vector Bool 16) : SameExcept [] [.keys] s (s.setKeys k) :=
  ⟨fun _ _ => rfl, fun p _ => by cases p <;> simp_all [Piece.same, State.setKeys]⟩

theorem State.setFlag_sameExcept (f : Bool) : SameExcept [vf] [] s (s.setFlag f) := s.setReg_sameExcept vf _

theorem State.setResultThenFlag_sameExcept (x : Reg) (b : Byte) (f : Bool) :
    SameExcept [x, vf] [] s (s.setResultThenFlag x b f) :=
  (s.setReg_sameExcept x b).trans ((s.setReg x b).setFlag_sameExcept f)

theorem State.setLogicResult_sameExcept (x : Reg) (b : Byte) :
    SameExcept (if s.quirks.logicResetsVf then [x, vf] else [x]) [] s (s.setLogicResult x b) := by
  unfold State.setLogicResult
  split
  · exact s.setResultThenFlag_sameExcept x b false
  · exact s.setReg_sameExcept x b

theorem State.skipIf_sameExcept (c : Bool) : SameExcept [] [.pc] s (s.skipIf c) := by
  cases c with
  | false => exact (SameExcept.refl s).mono (List.Subset.refl _) (List.nil_subset _)
  | true => exact s.setPc_sameExcept _

theorem State.stall_sameExcept : SameExcept [] [.pc] s s.stall := s.setPc_sameExcept _

theorem State.latchFault_sameExcept (k : FaultKind) (a w : Word) : SameExcept [] [.pc, .fault] s (s.latchFault k a w) :=
  (s.setPc_sameExcept a).trans ((s.setPc a).setFault_sameExcept _)

theorem State.advanceIndex_sameExcept (x : Reg) :
    SameExcept [] (if s.quirks.memAdvancesI then [.index] else []) s (s.advanceIndex x) := by
  unfold State.advanceIndex
  split
  · exact s.setIndex_sameExcept _
  · exact SameExcept.refl s

/-- The registers `V0` to `VX` (R146). -/
def regsUpTo (x : Reg) : List Reg := (List.finRange 16).filter (· ≤ x)

@[simp] theorem mem_regsUpTo {x r : Reg} : r ∈ regsUpTo x ↔ r ≤ x := by simp [regsUpTo]

theorem State.loadRegBlock_sameExcept (x : Reg) : SameExcept (regsUpTo x) [] s (s.loadRegBlock x) := by
  refine ⟨fun r hr => ?_, fun p _ => by cases p <;> simp [Piece.same]⟩
  rw [mem_regsUpTo] at hr
  rw [State.loadRegBlock_reg, if_neg hr]

theorem keyWait_sameExcept (release : Bool) (x : Reg) : SameExcept [x] [.pc, .waitKey] s (keyWait release x s) := by
  rcases keyWait_cases s release x with ⟨e, -⟩ | ⟨k, -, -, -, e⟩ | ⟨k, -, -, -, e⟩ | ⟨k, -, -, e⟩ <;> rw [e]
  · exact s.stall_sameExcept.mono (by simp) (by simp)
  · exact ((s.setWaitKey_sameExcept _).trans (s.setWaitKey _).stall_sameExcept).mono (by simp) (by simp)
  · exact ((s.setReg_sameExcept x _).trans ((s.setReg x _).setWaitKey_sameExcept _)).mono (by simp) (by simp)
  · exact (s.setReg_sameExcept x _).mono (by simp) (by simp)

end Operations

/-! ### Frames of the instructions -/

/-- The table of 10_state.md section 14 allows every change from `s` to `t`. -/
def WritesOnlyTable (i : Instr) (s t : State) : Prop :=
  (∀ r, writesReg s.quirks i r = false → t.reg r = s.reg r) ∧ ∀ p, writesPiece s.quirks i p = false → p.same s t

/-- A frame whose registers and pieces the table gives to the instruction. -/
theorem SameExcept.writesOnlyTable {i : Instr} {s t : State} {regs : List Reg} {parts : List Piece}
    (h : SameExcept regs parts s t) (hr : ∀ r ∈ regs, writesReg s.quirks i r = true)
    (hp : ∀ p ∈ parts, writesPiece s.quirks i p = true) : WritesOnlyTable i s t := by
  obtain ⟨hreg, hpiece⟩ := h
  refine ⟨fun r hn => hreg r fun hm => ?_, fun p hn => hpiece p fun hm => ?_⟩
  · rw [hr r hm] at hn; cases hn
  · rw [hp p hm] at hn; cases hn

/-- Only an instruction that can fault has a fault due. -/
theorem canFault_of_due {i : Instr} {s : State} {k : FaultKind} (h : s.instrFaultDue i = some k) : canFault i = true := by
  cases i
  case ret | call | drw | skp | sknp | ldB | stRegs | ldRegs => rfl
  all_goals cases h

/-- A fault writes `pc` and the record, which the table gives to the instructions that can fault (R208). -/
theorem latchFault_writesOnlyTable {i : Instr} {s : State} (h : canFault i = true) (k : FaultKind) (a w : Word) :
    WritesOnlyTable i s (s.latchFault k a w) :=
  (s.latchFault_sameExcept k a w).writesOnlyTable (by simp) (by simp [writesPiece, h])

/-- ADD_I with the quirk writes `I`, then the flag (R142). -/
theorem exec_addI_on {s : State} (h : s.quirks.addiSetsVf = true) (x : Reg) : exec (.addI x) s =
    .next ((s.setIndex (s.index + (s.reg x).setWidth 16)).setFlag (indexOverflow s.index (s.reg x))) := by
  simp only [exec, execAddI, h, if_true]

/-- ADD_I without the quirk writes `I` only (R142). -/
theorem exec_addI_off {s : State} (h : s.quirks.addiSetsVf = false) (x : Reg) :
    exec (.addI x) s = .next (s.setIndex (s.index + (s.reg x).setWidth 16)) := by
  simp only [exec, execAddI, h, Bool.false_eq_true, if_false]

/-- Everything an instruction that completes writes is given to it by the table. -/
theorem completion_writesOnlyTable {i : Instr} {s t : State} (h : Completion i s t) : WritesOnlyTable i s t := by
  cases i
  case cls => cases h; exact (s.setDisp_sameExcept _).writesOnlyTable (by simp) (by simp [writesPiece])
  case ret =>
    obtain ⟨hsp, rfl⟩ := h
    exact ((s.setSp_sameExcept _).trans (State.setPc_sameExcept _ _)).writesOnlyTable (by simp)
      (by simp [writesPiece, transfersControl])
  case call nnn =>
    obtain ⟨hsp, rfl⟩ := h
    exact (((s.setStack_sameExcept _).trans (State.setSp_sameExcept _ _)).trans
      (State.setPc_sameExcept _ _)).writesOnlyTable (by simp) (by simp [writesPiece, transfersControl])
  case jp | jpOff =>
    cases h; exact (s.setPc_sameExcept _).writesOnlyTable (by simp) (by simp [writesPiece, transfersControl])
  case seVxNn | sneVxNn | seVxVy | sneVxVy =>
    cases h; exact (s.skipIf_sameExcept _).writesOnlyTable (by simp) (by simp [writesPiece, transfersControl])
  case skp | sknp =>
    obtain ⟨k, -, rfl⟩ := h
    exact (s.skipIf_sameExcept _).writesOnlyTable (by simp) (by simp [writesPiece, transfersControl])
  case ldVxNn | addVxNn | ldVxVy | ldVxDt =>
    cases h; exact (s.setReg_sameExcept _ _).writesOnlyTable (by simp [writesReg]) (by simp)
  case or | and | xor =>
    cases h
    exact (s.setLogicResult_sameExcept _ _).writesOnlyTable
      (by cases hq : s.quirks.logicResetsVf <;> simp [writesReg, hq]) (by simp)
  case addVxVy | sub | shr | subn | shl =>
    cases h; exact (s.setResultThenFlag_sameExcept _ _ _).writesOnlyTable (by simp [writesReg]) (by simp)
  case ldI | ldF => cases h; exact (s.setIndex_sameExcept _).writesOnlyTable (by simp) (by simp [writesPiece])
  case rnd x nn =>
    cases h
    exact ((s.setReg_sameExcept x _).trans (State.setRnd_sameExcept _ _ _)).writesOnlyTable (by simp [writesReg])
      (by simp [writesPiece])
  case drw x y n =>
    cases h
    exact (((s.setDisp_sameExcept _).trans (State.setFlag_sameExcept _ _)).trans
      (State.setDrawn_sameExcept _ _)).writesOnlyTable (by simp [writesReg]) (by simp [writesPiece])
  case ldVxK x =>
    cases h
    exact (keyWait_sameExcept s _ x).writesOnlyTable (by simp [writesReg]) (by simp [writesPiece, transfersControl])
  case ldDtVx x => cases h; exact (s.setDt_sameExcept _).writesOnlyTable (by simp) (by simp [writesPiece])
  case ldStVx x => cases h; exact (s.setSt_sameExcept _).writesOnlyTable (by simp) (by simp [writesPiece])
  case addI x =>
    cases hq : s.quirks.addiSetsVf with
    | false =>
      obtain rfl := Host.Outcome.next.inj (h.trans (exec_addI_off hq x))
      exact (s.setIndex_sameExcept _).writesOnlyTable (by simp) (by simp [writesPiece])
    | true =>
      obtain rfl := Host.Outcome.next.inj (h.trans (exec_addI_on hq x))
      exact ((s.setIndex_sameExcept _).trans (State.setFlag_sameExcept _ _)).writesOnlyTable
        (by simp [writesReg, hq]) (by simp [writesPiece])
  case ldB x =>
    obtain ⟨-, rfl⟩ := h
    exact (s.setMem_sameExcept _).writesOnlyTable (by simp) (by simp [writesPiece])
  case stRegs x =>
    obtain ⟨-, rfl⟩ := h
    exact ((s.setMem_sameExcept _).trans (State.advanceIndex_sameExcept _ x)).writesOnlyTable (by simp)
      (by cases hq : s.quirks.memAdvancesI <;> simp [writesPiece, hq])
  case ldRegs x =>
    cases h
    exact ((s.loadRegBlock_sameExcept x).trans (State.advanceIndex_sameExcept _ x)).writesOnlyTable
      (by simp [writesReg]) (by cases hq : s.quirks.memAdvancesI <;> simp [writesPiece, hq])

/-- Settles O16: an instruction raises a fault or completes (`exec_cases`), and writes by the table either way. -/
theorem instructionsWriteOnlyWhatTheTableGives : Obligations.InstructionsWriteOnlyWhatTheTableGives := by
  intro i s t h
  rcases exec_cases s i with ⟨k, hdue, hraise⟩ | ⟨hdue, -⟩
  · rw [hraise] at h
    cases h
    exact latchFault_writesOnlyTable (canFault_of_due hdue) k _ _
  · exact completion_writesOnlyTable (exec_completion s i t h hdue)

end Sys2Proof.Machine
end

section
/-! PROOFS. The step (spec/30_encoding.md R70) and its faults (spec/60_exceptions.md R208 to R210): either the fault due is
latched and nothing else happens, or the instruction fetched completes. -/

namespace Sys2Proof.Machine

/-! ### The instruction fetched is the instruction run -/

section Step

variable {s : State} {i : Instr}

/-- Where a word is fetched and decodes, the step is `exec` of its instruction (R70). -/
theorem step_of_decode (hf : s.fault = none) (hp : s.fetchable = true) (hd : decodeWord s.fetchWord = some i) :
    step s = exec i ((s.setStarted true).setPc (s.pc + 2)) := by
  rcases step_cases s with ⟨hn, -⟩ | ⟨-, hn, -⟩ | ⟨-, -, hn, -⟩ | ⟨-, -, j, hj, e⟩
  · exact absurd hf hn
  · rw [hp] at hn; cases hn
  · rw [hd] at hn; cases hn
  · obtain rfl := Option.some.inj (hd.symm.trans hj)
    exact e

/-- A halted step sets `started` and nothing else (R209). -/
theorem step_of_halted (hf : s.fault ≠ none) : step s = .next (s.setStarted true) := by
  rcases step_cases s with ⟨-, e⟩ | ⟨hn, -⟩ | ⟨hn, -⟩ | ⟨hn, -⟩
  · exact e
  all_goals exact absurd hn hf

/-- Settles O6: the way of `step_cases` in which an instruction is fetched. -/
theorem stepRunsTheDecodedInstruction : Obligations.StepRunsTheDecodedInstruction :=
  fun s _ hf heven hle hd => step_of_decode hf (s.fetchable_iff.mpr ⟨heven, hle⟩) hd

end Step

/-! ### Every step answers -/

/-- An instruction answers a next state: a fault is one too (R208). -/
theorem exec_answers (i : Instr) (s : State) : ∃ t, exec i s = .next t := by
  rcases exec_cases s i with ⟨k, -, e⟩ | ⟨-, t, e, -⟩
  · exact ⟨_, e⟩
  · exact ⟨t, e⟩

/-- No instruction writes `started` (R35). -/
theorem exec_started {i : Instr} {s t : State} (h : exec i s = .next t) : t.started = s.started :=
  (instructionsWriteOnlyWhatTheTableGives i s t h).2 .started rfl

/-- Settles O8: each of the four ways of `step_cases` answers, with `started` set at its beginning and written by no
instruction. -/
theorem everyStepAnswersANextState : Obligations.EveryStepAnswersANextState := by
  intro s
  rcases step_cases s with ⟨-, e⟩ | ⟨-, -, e⟩ | ⟨-, -, -, e⟩ | ⟨-, -, i, -, e⟩
  case inr.inr.inr =>
    obtain ⟨t, ht⟩ := exec_answers i ((s.setStarted true).setPc (s.pc + 2))
    exact ⟨t, e.trans ht, exec_started ht⟩
  all_goals exact ⟨_, e, rfl⟩

theorem step_started {s t : State} (h : step s = .next t) : t.started = true := by
  obtain ⟨u, hu, hstarted⟩ := everyStepAnswersANextState s
  obtain rfl := Host.Outcome.next.inj (h.symm.trans hu)
  exact hstarted

/-! ### The fault due (R210) -/

section Due

variable {s : State}

theorem State.faultDue_of_not_fetchable (hp : s.fetchable = false) :
    s.faultDue = some ⟨.badProgramCounter, s.pc, 0x0000⟩ := if_pos (s.fetchable_false.mp hp)

theorem State.faultDue_of_fetchable (hp : s.fetchable = true) :
    s.faultDue = match decodeWord s.fetchWord with
      | none => some ⟨.unimplementedOpcode, s.pc, s.fetchWord⟩
      | some i => (s.instrFaultDue i).map fun kind => ⟨kind, s.pc, s.fetchWord⟩ := by
  have hno : ¬(s.pc.toNat % 2 = 1 ∨ s.pc.toNat > 0xFFE) := fun h => by
    rw [s.fetchable_false.mpr h] at hp; cases hp
  rw [State.faultDue, if_neg hno, ← State.fetchWord_eq]
  cases decodeWord s.fetchWord with
  | none => rfl
  | some i => cases hk : s.instrFaultDue i <;> simp [hk]

/-- The instruction's own check reads neither `started` nor `pc`. -/
theorem State.instrFaultDue_advanced (s : State) (a : Word) (i : Instr) :
    ((s.setStarted true).setPc a).instrFaultDue i = s.instrFaultDue i := by
  cases i <;> rfl

/-- A step from a state with no fault latched: the fault due is latched, with `pc0` in the record, and nothing else but
`started` changes; or no fault is due, and the instruction fetched completes. -/
theorem step_latches_or_completes (hf : s.fault = none) :
    (∃ f, s.faultDue = some f ∧ f.pc = s.pc ∧ step s = .next ((s.setFault (some f)).setStarted true)) ∨
    (s.faultDue = none ∧ ∃ i t, s.fetchable = true ∧ decodeWord s.fetchWord = some i ∧ step s = .next t ∧
      t.fault = none ∧ Completion i ((s.setStarted true).setPc (s.pc + 2)) t) := by
  rcases step_cases s with ⟨hn, -⟩ | ⟨-, hp, e⟩ | ⟨-, hp, hd, e⟩ | ⟨-, hp, i, hd, e⟩
  · exact absurd hf hn
  · exact .inl ⟨_, State.faultDue_of_not_fetchable hp, rfl, e⟩
  · exact .inl ⟨_, by rw [State.faultDue_of_fetchable hp, hd], rfl, e⟩
  · have hdue : s.faultDue = (s.instrFaultDue i).map fun kind => ⟨kind, s.pc, s.fetchWord⟩ := by
      rw [State.faultDue_of_fetchable hp, hd]
    rcases exec_cases ((s.setStarted true).setPc (s.pc + 2)) i with ⟨k, hk, hraise⟩ | ⟨hk, t, ht, htf⟩ <;>
      rw [State.instrFaultDue_advanced] at hk
    · refine .inl ⟨_, by rw [hdue, hk]; rfl, rfl, ?_⟩
      rw [e, hraise, raiseFault_at _ k i s.pc rfl, encode_of_decodeWord hd]; rfl
    · refine .inr ⟨by rw [hdue, hk]; rfl, i, t, hp, hd, e.trans ht, htf.trans hf, ?_⟩
      exact exec_completion _ i t ht (by rw [State.instrFaultDue_advanced, hk])

end Due

/-- Settles O9: both ways of `step_latches_or_completes` name the fault due. -/
theorem faultLatchedIsTheFaultDue : Obligations.FaultLatchedIsTheFaultDue := by
  intro s t hf h
  rcases step_latches_or_completes hf with ⟨f, hdue, -, e⟩ | ⟨hdue, i, u, -, -, e, hu, -⟩ <;>
    obtain rfl := Host.Outcome.next.inj (h.symm.trans e)
  · exact hdue.symm
  · exact hu.trans hdue.symm

/-- Settles O10: a step that ends with a record went the first way of `step_latches_or_completes`. -/
theorem faultingStepChangesNothingElse : Obligations.FaultingStepChangesNothingElse := by
  intro s t f hf h htf
  rcases step_latches_or_completes hf with ⟨g, -, hpc, e⟩ | ⟨-, i, u, -, -, e, hu, -⟩ <;>
    obtain rfl := Host.Outcome.next.inj (h.symm.trans e)
  · obtain rfl : g = f := Option.some.inj htf
    exact ⟨rfl, hpc⟩
  · rw [hu] at htf; cases htf

/-! ### The halt (R209) -/

theorem State.tick_of_halted {s : State} (hf : s.fault ≠ none) : s.tick = s :=
  if_pos (Option.isSome_iff_ne_none.mpr hf)

theorem State.load_fault (s : State) (bytes : List Byte) : (s.load bytes).fault = s.fault := by
  unfold State.load; split <;> rfl

/-- A step with the environment's byte is a step of the state that holds it (log 3). -/
theorem stepWith_of_step {rnd : Byte} {s t : State} (h : step (s.setRnd (some rnd) s.rndCount) = .next t) :
    stepWith rnd s = .next (t.setRnd none t.rndCount) := by
  rw [stepWith, h]

/-- Settles O11: the halted step and tick; of the transactions, only a step that is not halted could write the record. -/
theorem haltedMachineWaitsForReset : Obligations.HaltedMachineWaitsForReset := by
  intro s hf
  refine ⟨step_of_halted hf, State.tick_of_halted hf, fun tr t hr h => ?_⟩
  cases tr with
  | reset q => exact absurd rfl (hr q)
  | load bytes => cases h; exact s.load_fault bytes
  | setKeys k => cases h; rfl
  | step rnd =>
    have hstep := stepWith_of_step (rnd := rnd) (step_of_halted (s := s.setRnd (some rnd) s.rndCount) hf)
    obtain rfl := Host.Outcome.next.inj (h.symm.trans hstep)
    rfl
  | tick => cases h; rw [State.tick_of_halted hf]
  | clearDrawn => cases h; rfl

/-! ### A stored word -/

theorem State.withFetchWord_of_fetchable {s : State} (hp : s.fetchable = true) (w : Word) :
    s.withFetchWord 16 w.toNat = s.storeWord s.pc.toNat w := by
  rw [State.withFetchWord, if_pos hp, Nat.mod_eq_of_lt w.isLt, BitVec.ofNat_toNat, BitVec.setWidth_eq]

theorem State.storeWord_read (s : State) (a b : Nat) (w : Word) : (s.storeWord a w).mem.read b =
    if b = a + 1 then loByte w else if b = a then hiByte w else s.mem.read b := by
  rw [State.storeWord, State.setMem_mem, Memory.read_write, Memory.read_write]

/-- A word stored at `pc` is the word fetched (R52). -/
theorem State.fetchWord_storeWord (s : State) (w : Word) : (s.storeWord s.pc.toNat w).fetchWord = w := by
  have hpc : (s.storeWord s.pc.toNat w).pc = s.pc := rfl
  have hhi : (s.storeWord s.pc.toNat w).mem.read s.pc.toNat = hiByte w := by
    rw [State.storeWord_read, if_neg (by omega), if_pos rfl]
  have hlo : (s.storeWord s.pc.toNat w).mem.read (s.pc.toNat + 1) = loByte w := by
    rw [State.storeWord_read, if_pos rfl]
  rw [State.fetchWord, hpc, hhi, hlo, wordOfBytes_hiByte_loByte]

/-- Settles O7: the word stored is the word fetched, which decodes to its instruction (`decodeWord_encode`). -/
theorem storedWordIsRunNext : Obligations.StoredWordIsRunNext := by
  intro s i hf heven hle hwf
  have hp : s.fetchable = true := s.fetchable_iff.mpr ⟨heven, hle⟩
  rw [State.withFetchWord_of_fetchable hp]
  constructor
  · exact step_of_decode (s := s.storeWord s.pc.toNat (encode i)) hf hp
      (by rw [State.fetchWord_storeWord, decodeWord_encode hwf])
  · intro a h0 h1
    rw [State.storeWord_read, if_neg h1, if_neg h0]

end Sys2Proof.Machine
end

section
/-! PROOFS. The invariant (spec/10_state.md sections 5, 6 and 10; spec/20_memory.md section 1): it holds after reset, every
step keeps it, and so does every transaction; hence every interleaving of the six transactions keeps it. -/

namespace Sys2Proof.Machine

/-! ### The pieces the invariant speaks of -/

/-- The invariant reads no other pieces of state than these. -/
theorem State.Inv.congr {s t : State} (h : s.Inv) (hmem : t.mem = s.mem) (hpc : t.pc = s.pc) (hstack : t.stack = s.stack)
    (hsp : t.sp = s.sp) (hwait : t.waitKey = s.waitKey) (hstarted : t.started = s.started) (hfault : t.fault = s.fault)
    (hv : t.v = s.v) (hindex : t.index = s.index) : t.Inv := by
  obtain ⟨memory, pcBound, liveStack, awaiting, latched⟩ := h
  have hdue : t.faultDue = s.faultDue := State.faultDue_congr hpc hmem hsp hv hindex
  constructor
  · rwa [hmem]
  · rwa [hpc]
  · rwa [hsp, hstack]
  · rwa [hwait, hstarted, hfault, hdue, hmem, hpc]
  · rwa [hfault, hstarted, hdue]

/-- Settles O12: memory lists nothing, the stack is empty, no key is awaited and no record is latched. -/
theorem invariantHoldsAfterReset : Obligations.InvariantHoldsAfterReset := by
  intro q
  constructor
  · exact Memory.wf_nil
  · exact (show (0x200 : Nat) ≤ 0x10FE by decide)
  · intro k hk; exact absurd hk (Nat.not_lt_zero _)
  · intro h; exact absurd rfl h
  · intro f h; cases h

/-! ### What a completed instruction does to them -/

section Completed

variable {s t : State} {i : Instr}

/-- A block write by an instruction is in range, so memory keeps its canonical form (R50, R55). -/
theorem completion_memory (h : Completion i s t) (hm : s.mem.wf = true) : t.mem.wf = true := by
  cases i
  case ldB x =>
    obtain ⟨hr, rfl⟩ := h
    rw [State.dataInRange_iff] at hr
    exact Memory.wf_writeBytes _ hm (by simp [decimalDigits, State.dataAddr, Config.memSize]; omega)
  case stRegs x =>
    obtain ⟨hr, rfl⟩ := h
    rw [State.dataInRange_iff] at hr
    rw [State.advanceIndex_mem]
    exact Memory.wf_writeBytes _ hm (by rw [State.regBlock_length, State.dataAddr, Config.memSize]; omega)
  case ret | call => obtain ⟨-, rfl⟩ := h; exact hm
  case skp | sknp => obtain ⟨k, -, rfl⟩ := h; simpa using hm
  case addI x => cases h; split <;> exact hm
  all_goals cases h; simpa using hm

/-- Below the wrap of `pc`, the next instruction's address is two more. -/
theorem word_add_two_toNat {a : Word} (h : a.toNat ≤ 0xFFFD) : (a + 2).toNat = a.toNat + 2 :=
  BitVec.toNat_add_of_lt (y := 2) (Nat.lt_succ_of_le (Nat.add_le_add_right h 2))

theorem addressOf_le (nnn : BitVec 12) : (addressOf nnn).toNat ≤ 0xFFF := by
  rw [addressOf_toNat]; exact Nat.le_of_lt_succ nnn.isLt

theorem State.skipIf_pc_le (c : Bool) (hpc : s.pc.toNat ≤ 0x1000) : (s.skipIf c).pc.toNat ≤ 0x10FE := by
  rw [State.skipIf_pc]
  split
  · rw [word_add_two_toNat (by omega)]; omega
  · omega

/-- The stack entries in use are what CALL pushed: even and at most 4096 (R100). -/
def State.StackOk (s : State) : Prop :=
  ∀ k : Fin 64, k.val < s.sp.val → (s.stack.get k).toNat % 2 = 0 ∧ (s.stack.get k).toNat ≤ 4096

/-- CALL pushes `pc0 + 2`, RET leaves fewer entries, and no other instruction writes the stack. -/
theorem completion_stackOk (h : Completion i s t) (hs : s.StackOk) (heven : s.pc.toNat % 2 = 0)
    (hpc : s.pc.toNat ≤ 0x1000) : t.StackOk := by
  cases i
  case ret =>
    obtain ⟨hsp, rfl⟩ := h
    exact fun k hk => hs k (Nat.lt_of_lt_of_le hk (Nat.sub_le _ _))
  case call nnn =>
    obtain ⟨hsp, rfl⟩ := h
    intro k hk
    rw [State.setPc_stack, State.setSp_stack, State.setStack_stack, Vector.get_eq_getElem, Vector.getElem_set]
    split
    next => exact ⟨heven, hpc⟩
    next hne => exact hs k (Nat.lt_of_le_of_ne (Nat.le_of_lt_succ hk) (Ne.symm hne))
  all_goals
    have hframe := (completion_writesOnlyTable h).2
    rwa [State.StackOk, hframe .sp rfl, hframe .stack rfl]

/-- The other instructions leave `waitKey` as it was. -/
theorem completion_waitKey (h : Completion i s t) : (∃ x, i = .ldVxK x) ∨ t.waitKey = s.waitKey := by
  cases i
  case ldVxK x => exact .inl ⟨x, rfl⟩
  all_goals exact .inr ((completion_writesOnlyTable h).2 .waitKey rfl)

/-- A key wait that has not completed goes back to its own address and writes at most `waitKey` (R172). -/
theorem keyWait_stalls {x : Reg} (h : (keyWait true x s).waitKey ≠ none) :
    ∃ w, keyWait true x s = (s.setWaitKey w).stall := by
  rcases keyWait_cases s true x with ⟨e, -⟩ | ⟨k, -, -, -, e⟩ | ⟨k, -, -, -, e⟩ | ⟨k, hrelease, -⟩
  · exact ⟨s.waitKey, e⟩
  · exact ⟨some k, e⟩
  · rw [e] at h; exact absurd rfl h
  · cases hrelease

theorem keyWait_pc_le (release : Bool) (x : Reg) (hlow : 2 ≤ s.pc.toNat) :
    (keyWait release x s).pc.toNat ≤ s.pc.toNat := by
  have hstall : s.stall.pc.toNat ≤ s.pc.toNat := by
    rw [State.stall_pc, BitVec.toNat_sub_of_le (show (2 : Word) ≤ s.pc from hlow)]
    exact Nat.sub_le _ _
  rcases keyWait_cases s release x with ⟨e, -⟩ | ⟨k, -, -, -, e⟩ | ⟨k, -, -, -, e⟩ | ⟨k, -, -, e⟩ <;> rw [e]
  · exact hstall
  · exact hstall
  · exact Nat.le_refl _
  · exact Nat.le_refl _

/-- The largest `pc`: a live stack entry, an address, an address plus a byte, or a skip from `pc0 + 2` (R25). -/
theorem completion_pc (h : Completion i s t) (hs : s.StackOk) (hlow : 2 ≤ s.pc.toNat) (hpc : s.pc.toNat ≤ 0x1000) :
    t.pc.toNat ≤ 0x10FE := by
  have hnext : s.pc.toNat ≤ 0x10FE := by omega
  cases i
  case ret =>
    obtain ⟨hsp, rfl⟩ := h
    exact (hs ⟨s.sp.val - 1, by omega⟩ (Nat.sub_one_lt_of_lt hsp)).2.trans (by decide)
  case call nnn => obtain ⟨-, rfl⟩ := h; exact (addressOf_le nnn).trans (by decide)
  case jp nnn => cases h; exact (addressOf_le nnn).trans (by decide)
  case jpOff nnn =>
    cases h
    have haddr := addressOf_le nnn
    have hbyte := (s.reg (s.offsetReg nnn)).isLt
    rw [State.setPc_pc, BitVec.toNat_add, BitVec.toNat_setWidth]; omega
  case seVxNn | sneVxNn | seVxVy | sneVxVy => cases h; exact State.skipIf_pc_le _ hpc
  case skp | sknp => obtain ⟨k, -, rfl⟩ := h; exact State.skipIf_pc_le _ hpc
  case ldVxK x => cases h; exact (keyWait_pc_le _ x hlow).trans hnext
  case drw x y n => cases h; exact hnext
  case ldB x => obtain ⟨-, rfl⟩ := h; exact hnext
  case stRegs x => obtain ⟨-, rfl⟩ := h; rwa [State.advanceIndex_pc]
  case ldRegs x => cases h; rwa [State.advanceIndex_pc]
  all_goals rwa [show t.pc = s.pc from (completion_writesOnlyTable h).2 .pc rfl]

end Completed

/-! ### The step -/

section Step

variable {s t : State}

/-- A halted state keeps its record, which is still the fault due. -/
theorem State.Inv.halted (h : s.Inv) (hf : s.fault ≠ none) : (s.setStarted true).Inv := by
  obtain ⟨memory, pcBound, liveStack, awaiting, latched⟩ := h
  refine ⟨memory, pcBound, liveStack, fun hw => ?_, fun f hrec => ⟨rfl, (latched f hrec).2⟩⟩
  exact absurd (awaiting hw).2.1 hf

/-- A fault leaves `pc` and everything it is due by as they were, so the record is due in the state left behind; and no key
was awaited, since no fault is due at a key wait. -/
theorem State.Inv.latchedFault {f : FaultRecord} (h : s.Inv) (hdue : s.faultDue = some f) :
    ((s.setFault (some f)).setStarted true).Inv := by
  obtain ⟨memory, pcBound, liveStack, awaiting, -⟩ := h
  refine ⟨memory, pcBound, liveStack, fun hw => ?_, fun g hrec => ⟨rfl, hdue.trans hrec⟩⟩
  obtain ⟨-, -, hnone, -⟩ := awaiting hw
  rw [hdue] at hnone; cases hnone

/-- A completed instruction: a key awaited afterwards was chosen, or is still awaited, by the LD_VX_K at `pc`, which
stalled. -/
theorem State.Inv.completed {i : Instr} (h : s.Inv) (hdue : s.faultDue = none)
    (hp : s.fetchable = true) (hd : decodeWord s.fetchWord = some i)
    (ht : Completion i ((s.setStarted true).setPc (s.pc + 2)) t) (htf : t.fault = none) (hstarted : t.started = true) :
    t.Inv := by
  obtain ⟨memory, pcBound, liveStack, awaiting, -⟩ := h
  obtain ⟨heven, hle⟩ := s.fetchable_iff.mp hp
  have hnext := word_add_two_toNat (a := s.pc) (by omega)
  have hlow : 2 ≤ (s.pc + 2).toNat := by omega
  have hhigh : (s.pc + 2).toNat ≤ 0x1000 := by omega
  have heven2 : (s.pc + 2).toNat % 2 = 0 := by omega
  refine ⟨completion_memory ht memory, completion_pc ht liveStack hlow hhigh,
    completion_stackOk ht liveStack heven2 hhigh, fun hw => ⟨hstarted, htf, ?_⟩, fun f hrec => ?_⟩
  · have hwaits : ∃ x, i = .ldVxK x := by
      rcases completion_waitKey ht with hx | hsame
      · exact hx
      · obtain ⟨-, -, -, x, hx⟩ := awaiting (fun hn => hw (hsame.trans hn))
        exact ⟨x, Option.some.inj (hd.symm.trans hx)⟩
    obtain ⟨x, rfl⟩ := hwaits
    obtain rfl : t = keyWait true x _ := Host.Outcome.next.inj ht
    obtain ⟨w, e⟩ := keyWait_stalls hw
    have hpc : (keyWait true x ((s.setStarted true).setPc (s.pc + 2))).pc = s.pc := by
      rw [e]; exact BitVec.add_sub_cancel _ _
    rw [State.faultDue_congr hpc (by rw [e]; rfl) (by rw [e]; rfl) (by rw [e]; rfl) (by rw [e]; rfl), hpc, keyWait_mem]
    exact ⟨hdue, x, hd⟩
  · rw [htf] at hrec; cases hrec

theorem State.Inv.step (h : s.Inv) (ht : step s = .next t) : t.Inv := by
  by_cases hf : s.fault = none
  · have hstarted : t.started = true := step_started ht
    rcases step_latches_or_completes hf with ⟨f, hdue, -, e⟩ | ⟨hdue, i, u, hp, hd, e, huf, hu⟩ <;>
      obtain rfl := Host.Outcome.next.inj (ht.symm.trans e)
    · exact h.latchedFault hdue
    · exact h.completed hdue hp hd hu huf hstarted
  · obtain rfl := Host.Outcome.next.inj (ht.symm.trans (step_of_halted hf))
    exact h.halted hf

end Step

/-- Settles O13: a step is halted, latches the fault due, or completes an instruction; each keeps the invariant. -/
theorem everyStepKeepsTheInvariant : Obligations.EveryStepKeepsTheInvariant :=
  fun _ _ => State.Inv.step

/-! ### The transactions -/

theorem State.loadStatus_eq_ok_iff {s : State} {bytes : List Byte} :
    s.loadStatus bytes = .ok ↔ s.started = false ∧ bytes.length ≤ Config.imageMax := by
  constructor
  · intro h
    unfold State.loadStatus at h
    split at h
    next => cases h
    next hs =>
      split at h
      next => cases h
      next hfit => exact ⟨Bool.eq_false_of_not_eq_true hs, Nat.le_of_not_lt hfit⟩
  · exact fun ⟨hs, hfit⟩ => State.loadStatus_eq_ok hs hfit

section Transactions

variable {s t : State}

/-- The environment's byte is no piece the invariant speaks of. -/
theorem State.Inv.setRnd (h : s.Inv) (a : Option Byte) (n : Nat) : (s.setRnd a n).Inv :=
  h.congr rfl rfl rfl rfl rfl rfl rfl rfl rfl

theorem State.Inv.stepWith {rnd : Byte} (h : s.Inv) (ht : stepWith rnd s = .next t) : t.Inv := by
  obtain ⟨u, hu, -⟩ := everyStepAnswersANextState (s.setRnd (some rnd) s.rndCount)
  obtain rfl := Host.Outcome.next.inj (ht.symm.trans (stepWith_of_step hu))
  exact ((h.setRnd _ _).step hu).setRnd _ _

theorem State.Inv.tick (h : s.Inv) : s.tick.Inv := by
  unfold State.tick
  split
  · exact h
  · exact h.congr rfl rfl rfl rfl rfl rfl rfl rfl rfl

/-- Before the first step no key is awaited and no record is latched, so a load can disturb neither; the image fits in the
4096 bytes (R233). -/
theorem State.Inv.loaded {bytes : List Byte} (h : s.Inv) (hs : s.started = false)
    (hfit : bytes.length ≤ Config.imageMax) : (s.setMem (s.mem.writeBytes Config.entry bytes)).Inv := by
  obtain ⟨memory, pcBound, liveStack, awaiting, latched⟩ := h
  have hnot : s.started ≠ true := by rw [hs]; exact Bool.false_ne_true
  refine ⟨Memory.wf_writeBytes bytes memory ?_, pcBound, liveStack, fun hw => ?_, fun f hrec => ?_⟩
  · rw [Config.imageMax, Config.entry, Config.memSize] at *; omega
  · exact absurd (awaiting hw).1 hnot
  · exact absurd (latched f hrec).1 hnot

theorem State.Inv.load (h : s.Inv) (bytes : List Byte) : (s.load bytes).Inv := by
  by_cases hok : s.loadStatus bytes = .ok
  · rw [State.load_of_ok hok]
    obtain ⟨hs, hfit⟩ := State.loadStatus_eq_ok_iff.mp hok
    exact h.loaded hs hfit
  · rwa [State.load_of_ne_ok hok]

theorem State.Inv.perform {tr : Transaction} (h : s.Inv) (ht : perform tr s = .next t) : t.Inv := by
  cases tr with
  | reset q => cases ht; exact invariantHoldsAfterReset q
  | load bytes => cases ht; exact h.load bytes
  | setKeys k => cases ht; exact h.congr rfl rfl rfl rfl rfl rfl rfl rfl rfl
  | step rnd => exact h.stepWith ht
  | tick => cases ht; exact h.tick
  | clearDrawn => cases ht; exact h.congr rfl rfl rfl rfl rfl rfl rfl rfl rfl

end Transactions

/-- Settles O14, by induction on the list: each transaction keeps the invariant (`State.Inv.perform`). -/
theorem everyInterleavingKeepsTheInvariant : Obligations.EveryInterleavingKeepsTheInvariant := by
  intro trs
  induction trs with
  | nil => intro s t h ht; cases ht; exact h
  | cons tr rest ih =>
    intro s t h ht
    unfold performAll at ht
    split at ht
    next u hu => exact ih u t (h.perform hu) ht
    all_goals cases ht

end Sys2Proof.Machine
end

section
/-! PROOFS. Reset, load, timers, keys and whole runs (spec/70_reset_and_hazards.md; spec/60_exceptions.md section 7;
spec/20_memory.md section 7). -/

namespace Sys2Proof.Machine

/-! ### Reset (R38) -/

/-- Outside the font an unlisted address reads as zero (R38). -/
theorem Memory.unlisted_outside_font {a : Nat} (h : a < 0x50 ∨ 0x9F < a) : Memory.unlisted a = 0 :=
  if_neg (by rw [Config.fontBase, Config.fontLen]; omega)

/-- Inside the font an unlisted address reads as its byte of the font (R58). -/
theorem Memory.unlisted_font {k : Nat} (h : k < 80) : Memory.unlisted (0x50 + k) = Config.font.getD k 0 := by
  rw [Memory.unlisted, if_pos (by rw [Config.fontBase, Config.fontLen]; omega), Config.fontBase, Nat.add_sub_cancel_left]

/-- Settles O19: the fields by their definition, memory by what an unlisted address reads as. -/
theorem resetLeavesTheTableValues : Obligations.ResetLeavesTheTableValues := by
  intro q s
  refine ⟨State.resetWith q, rfl, fun r => ?_, rfl, rfl, fun k => ?_, rfl, rfl, rfl, fun k => ?_, Display.clear_pixel, rfl,
    rfl, rfl, rfl, rfl, fun a ha => Memory.unlisted_outside_font ha, fun d k hd hk => ?_⟩
  · simp [State.reg, State.resetWith, Vector.get_eq_getElem]
  · simp [State.resetWith, Vector.get_eq_getElem]
  · simp [State.keyDown, State.resetWith, Vector.get_eq_getElem]
  · rw [Nat.add_assoc]
    exact Memory.unlisted_font (by omega)

/-! ### The transactions of the host -/

theorem stepWith_started {rnd : Byte} {s t : State} (h : stepWith rnd s = .next t) : t.started = true := by
  obtain ⟨u, hu, hstarted⟩ := everyStepAnswersANextState (s.setRnd (some rnd) s.rndCount)
  obtain rfl := Host.Outcome.next.inj (h.symm.trans (stepWith_of_step hu))
  exact hstarted

/-- Settles O21: a step sets `started`, and a started machine refuses a load (R234). -/
theorem loadIsRefusedAfterAStep : Obligations.LoadIsRefusedAfterAStep := by
  intro s t rnd bytes h
  have hrefused : t.loadStatus bytes = .refused := if_pos (stepWith_started h)
  exact ⟨hrefused, State.load_of_ne_ok (by rw [hrefused]; decide)⟩

/-- Settles O23: each transaction is one write of its piece. -/
theorem hostWritesKeysAndClearsTheMark : Obligations.HostWritesKeysAndClearsTheMark :=
  fun s k => ⟨⟨s.setKeys k, rfl, fun _ => rfl, s.setKeys_sameExcept k⟩,
    ⟨s.clearDrawn, rfl, rfl, s.setDrawn_sameExcept false⟩⟩

/-! ### Sequences of transactions -/

theorem performAll_cons {tr : Transaction} {s t : State} (h : perform tr s = .next t) (rest : List Transaction) :
    performAll (tr :: rest) s = performAll rest t := by
  rw [performAll, h]

theorem performAll_append {as : List Transaction} {s t : State} (h : performAll as s = .next t) (bs : List Transaction) :
    performAll (as ++ bs) s = performAll bs t := by
  induction as generalizing s with
  | nil => cases h; rfl
  | cons tr rest ih =>
    unfold performAll at h
    split at h
    next u hu => rw [List.cons_append, performAll_cons hu, ih h]
    all_goals cases h

/-- A timer counts down to zero and stays there (R221). -/
theorem countDown_toNat (b : Byte) : (countDown b).toNat = b.toNat - 1 := by
  unfold countDown
  split
  · exact BitVec.toNat_sub_of_le (show (1 : Byte) ≤ b from ‹b.toNat > 0›)
  · omega

theorem State.tick_of_running {s : State} (hf : s.fault = none) :
    s.tick = (s.setDt (countDown s.dt)).setSt (countDown s.st) :=
  if_neg (by simp [State.halted, hf])

/-- Settles O22, by induction on the number of ticks: one tick lowers each timer by one, and none latches a fault. -/
theorem ticksCountDownToZero : Obligations.TicksCountDownToZero := by
  intro s n hf
  induction n generalizing s with
  | zero => exact ⟨s, rfl, rfl, rfl, (SameExcept.refl s).mono (List.Subset.refl _) (List.nil_subset _)⟩
  | succ n ih =>
    have htick := State.tick_of_running hf
    obtain ⟨t, ht, hdt, hst, hframe⟩ := ih s.tick (by rw [htick]; exact hf)
    refine ⟨t, (performAll_cons rfl _).trans ht, ?_, ?_, ?_⟩
    · rw [hdt, htick, State.setSt_dt, State.setDt_dt, countDown_toNat, Nat.sub_sub, Nat.add_comm]
    · rw [hst, htick, State.setSt_st, countDown_toNat, Nat.sub_sub, Nat.add_comm]
    · rw [htick] at hframe
      exact ((s.setDt_sameExcept _).trans (State.setSt_sameExcept _ _)).congr_left hframe

/-! ### Runs -/

theorem State.setPc_self {s : State} {a : Word} (h : s.pc = a) : s.setPc a = s := by
  subst h; rfl

theorem State.setStarted_self {s : State} {b : Bool} (h : s.started = b) : s.setStarted b = s := by
  subst h; rfl

/-- Settles O24: the image's first two bytes stand at 0x200, where `pc` is after reset. -/
theorem launchedProgramStartsAtItsFirstWord : Obligations.LaunchedProgramStartsAtItsFirstWord := by
  rintro q hi lo rest s i ⟨hok, rfl⟩ hd
  rw [State.load_of_ok hok]
  refine ⟨step_of_decode rfl ((State.fetchable_iff _).mpr (show 0x200 % 2 = 0 ∧ 0x200 ≤ 0xFFE by decide)) ?_, rfl, rfl⟩
  have hread := (State.resetWith q).mem.read_writeBytes_inside (hi :: lo :: rest) 0x200
  have hhi := hread 0 (by simp)
  have hlo := hread 1 (by simp)
  rw [State.fetchWord_eq]
  exact (congrArg decodeWord (congrArg₂ (· ++ ·) hhi hlo)).trans hd

/-- A jump to its own address answers the state it starts from. -/
theorem step_jumpToSelf {s : State} {nnn : BitVec 12} (hf : s.fault = none) (hstarted : s.started = true)
    (hpc : s.pc = addressOf nnn) (heven : nnn.toNat % 2 = 0) (hd : decodeWord s.fetchWord = some (.jp nnn)) :
    step s = .next s := by
  have hval : s.pc.toNat = nnn.toNat := by rw [hpc, addressOf_toNat]
  have hp : s.fetchable = true := s.fetchable_iff.mpr (by have := nnn.isLt; omega)
  have hback : (s.setStarted true).setPc (addressOf nnn) = s := by
    rw [State.setStarted_self hstarted, State.setPc_self hpc]
  exact (step_of_decode hf hp hd).trans (congrArg Host.Outcome.next hback)

/-- Settles O25, by induction on the number of steps: each is `step_jumpToSelf`. -/
theorem jumpToSelfRunsForEver : Obligations.JumpToSelfRunsForEver := by
  intro s nnn n hf hstarted hpc heven hd
  have hrun : Sys2Proof.core.run n s = .next s := by
    induction n with
    | zero => rfl
    | succ n ih => exact (core_run_succ (step_jumpToSelf hf hstarted hpc heven hd)).trans ih
  exact ⟨hrun, s, hrun, hf⟩

/-! ### A store over the next instruction -/

/-- ST_REGS in range completes with one block write, `I` moved by the quirk (R145). -/
theorem exec_stRegs_of_inRange {s : State} {x : Reg} (h : s.dataAddr x.val ≤ 0xFFF) :
    exec (.stRegs x) s = .next ((s.setMem (s.mem.writeBytes (s.dataAddr 0) (s.regBlock x))).advanceIndex x) :=
  if_pos ((s.dataInRange_iff x.val).mpr h)

/-- The byte at `I + r` after a block store is `V[r]` (R145). -/
theorem State.read_storedBlock (s : State) {x r : Reg} (h : r ≤ x) :
    (s.mem.writeBytes (s.dataAddr 0) (s.regBlock x)).read (s.dataAddr r.val) = s.reg r := by
  have hlt : r.val < (s.regBlock x).length := by rw [State.regBlock_length]; exact Nat.lt_succ_of_le h
  exact (s.mem.read_writeBytes_inside (s.regBlock x) (s.dataAddr 0) r.val hlt).trans (s.regBlock_get x r.val hlt)

/-- With `I` at `pc`, a store of V0 and V1 leaves them as the word at `pc` (R61). -/
theorem State.fetchWord_storedBlock {s : State} (h : s.index = s.pc) :
    ((s.setMem (s.mem.writeBytes (s.dataAddr 0) (s.regBlock 1))).advanceIndex 1).fetchWord = s.reg 0 ++ s.reg 1 := by
  rw [State.fetchWord_eq, State.advanceIndex_mem, State.advanceIndex_pc, State.setMem_mem, State.setMem_pc, ← h]
  exact congrArg₂ (· ++ ·) (s.read_storedBlock (x := 1) (r := 0) (by decide))
    (s.read_storedBlock (x := 1) (r := 1) (by decide))

/-- A step at LD [I], V1 with `I` at the next instruction's address leaves V0 and V1 as the next word. -/
theorem step_storesNextWord {s : State} (hf : s.fault = none) (heven : s.pc.toNat % 2 = 0) (hle : s.pc.toNat ≤ 0xFFC)
    (hindex : s.index = s.pc + 2) (hd : decodeWord s.fetchWord = some (.stRegs 1)) :
    ∃ t, step s = .next t ∧ t.fault = none ∧ t.pc = s.pc + 2 ∧ t.fetchWord = s.reg 0 ++ s.reg 1 := by
  have hrange : ((s.setStarted true).setPc (s.pc + 2)).dataAddr (1 : Reg).val ≤ 0xFFF := by
    show s.index.toNat + 1 ≤ 0xFFF
    rw [hindex, word_add_two_toNat (by omega)]; omega
  have hstep := (step_of_decode hf (s.fetchable_iff.mpr ⟨heven, by omega⟩) hd).trans (exec_stRegs_of_inRange hrange)
  exact ⟨_, hstep, (State.advanceIndex_fault _ _).trans hf, State.advanceIndex_pc _ _, State.fetchWord_storedBlock hindex⟩

/-- Settles O26: the next word is V0 and V1 (`step_storesNextWord`), so the next step runs their instruction. -/
theorem storeIsSeenByTheNextFetch : Obligations.StoreIsSeenByTheNextFetch := by
  intro s i hf heven hle hindex hd hi
  obtain ⟨t, hstep, htf, htpc, htword⟩ := step_storesNextWord hf heven hle hindex hd
  have hp : t.fetchable = true := by
    rw [State.fetchable_iff, htpc, word_add_two_toNat (by omega)]; omega
  have hpc4 : t.pc + 2 = s.pc + 4 := by rw [htpc]; exact BitVec.add_assoc s.pc 2 2
  refine ⟨t, hstep, htf, htpc, ?_⟩
  rw [step_of_decode htf hp (by rw [htword, hi]), State.setStarted_self (step_started hstep), hpc4]

end Sys2Proof.Machine
end

section
/-! PROOFS. What no instruction reads: the sound timer, the draw mark, the fault record and `started` (spec/10_state.md sections
7 and 10), and, but for RND, the random byte of the step (spec/44_keys_timers_random.md section 4). -/

namespace Sys2Proof.Machine

/-- Two states in which the same fault is due answer related states if raising it relates them and so does completing. -/
theorem exec_related {R : State → State → Prop} {i : Instr} {s u : State} (hdue : u.instrFaultDue i = s.instrFaultDue i)
    (hraise : ∀ k, R (s.latchFault k (s.pc - 2) (encode i)) (u.latchFault k (u.pc - 2) (encode i)))
    (hcomplete : ∀ t v, Completion i s t → Completion i u v → R t v) :
    ∃ t v, exec i s = .next t ∧ exec i u = .next v ∧ R t v := by
  rcases exec_cases s i with ⟨k, hk, e⟩ | ⟨hk, t, e, -⟩
  · exact ⟨_, _, e, exec_eq_raiseFault (hdue.trans hk), hraise k⟩
  · obtain ⟨v, e'⟩ := exec_answers i u
    exact ⟨t, v, e, e', hcomplete t v (exec_completion s i t e hk) (exec_completion u i v e' (hdue.trans hk))⟩

/-! ### The pieces for the host -/

section HostOnly

variable (s : State) (b : Byte) (d : Bool) (f : Option FaultRecord) (g : Bool)

/-- Other values of the pieces no instruction reads. -/
def State.setHostOnly : State := (((s.setSt b).setDrawn d).setFault f).setStarted g

/-- Giving the four pieces their old values again. -/
theorem State.setHostOnly_restored :
    ((((s.setHostOnly b d f g).setSt s.st).setDrawn s.drawn).setFault s.fault).setStarted s.started = s := by
  cases s; rfl

/-- `v` is `t` but for the pieces no instruction reads. -/
def SameButHostOnly (t v : State) : Prop := ∃ b d f g, v = t.setHostOnly b d f g

theorem State.skipIf_setHostOnly (c : Bool) : (s.setHostOnly b d f g).skipIf c = (s.skipIf c).setHostOnly b d f g := by
  cases c <;> rfl

theorem State.setLogicResult_setHostOnly (x : Reg) (r : Byte) :
    (s.setHostOnly b d f g).setLogicResult x r = (s.setLogicResult x r).setHostOnly b d f g := by
  have hq : (s.setHostOnly b d f g).quirks = s.quirks := rfl
  unfold State.setLogicResult
  rw [hq]
  split <;> rfl

theorem State.advanceIndex_setHostOnly (x : Reg) :
    (s.setHostOnly b d f g).advanceIndex x = (s.advanceIndex x).setHostOnly b d f g := by
  have hq : (s.setHostOnly b d f g).quirks = s.quirks := rfl
  unfold State.advanceIndex
  rw [hq]
  split <;> rfl

theorem keyWait_setHostOnly (x : Reg) :
    keyWait true x (s.setHostOnly b d f g) = (keyWait true x s).setHostOnly b d f g := by
  have hw : (s.setHostOnly b d f g).waitKey = s.waitKey := rfl
  have hl : (s.setHostOnly b d f g).lowestPressed = s.lowestPressed := rfl
  have hd : ∀ k, (s.setHostOnly b d f g).keyDown k = s.keyDown k := fun _ => rfl
  simp only [keyWait, keyWaitRelease, if_true, hw, hl, hd]
  cases s.waitKey with
  | none => cases s.lowestPressed <;> rfl
  | some k => dsimp only; split <;> rfl

theorem State.latchFault_setHostOnly (k : FaultKind) (a w : Word) :
    (s.setHostOnly b d f g).latchFault k a w = (s.latchFault k a w).setHostOnly b d (some ⟨k, a, w⟩) g := rfl

/-- A completed instruction does the same to everything else whatever the values of those pieces. -/
theorem completion_setHostOnly {i : Instr} {t v : State} (ht : Completion i s t)
    (hv : Completion i (s.setHostOnly b d f g) v) : SameButHostOnly t v := by
  cases i
  case ret | call => obtain ⟨-, rfl⟩ := ht; obtain ⟨-, rfl⟩ := hv; exact ⟨b, d, f, g, rfl⟩
  case skp | sknp =>
    obtain ⟨k, hk, rfl⟩ := ht
    obtain ⟨l, hl, rfl⟩ := hv
    obtain rfl : k = l := Option.some.inj (hk.symm.trans hl)
    exact ⟨b, d, f, g, s.skipIf_setHostOnly b d f g _⟩
  case seVxNn | sneVxNn | seVxVy | sneVxVy =>
    cases ht; cases hv; exact ⟨b, d, f, g, s.skipIf_setHostOnly b d f g _⟩
  case or | and | xor => cases ht; cases hv; exact ⟨b, d, f, g, s.setLogicResult_setHostOnly b d f g _ _⟩
  case addI x =>
    cases hq : s.quirks.addiSetsVf with
    | false =>
      obtain rfl := Host.Outcome.next.inj (ht.trans (exec_addI_off hq x))
      obtain rfl := Host.Outcome.next.inj (hv.trans (exec_addI_off (s := s.setHostOnly b d f g) hq x))
      exact ⟨b, d, f, g, rfl⟩
    | true =>
      obtain rfl := Host.Outcome.next.inj (ht.trans (exec_addI_on hq x))
      obtain rfl := Host.Outcome.next.inj (hv.trans (exec_addI_on (s := s.setHostOnly b d f g) hq x))
      exact ⟨b, d, f, g, rfl⟩
  case drw x y n => cases ht; cases hv; exact ⟨b, true, f, g, rfl⟩
  case ldStVx x => cases ht; cases hv; exact ⟨s.reg x, d, f, g, rfl⟩
  case ldB x => obtain ⟨-, rfl⟩ := ht; obtain ⟨-, rfl⟩ := hv; exact ⟨b, d, f, g, rfl⟩
  case stRegs x =>
    obtain ⟨-, rfl⟩ := ht
    obtain ⟨-, rfl⟩ := hv
    exact ⟨b, d, f, g,
      (s.setMem (s.mem.writeBytes (s.dataAddr 0) (s.regBlock x))).advanceIndex_setHostOnly b d f g x⟩
  case ldRegs x =>
    cases ht; cases hv; exact ⟨b, d, f, g, (s.loadRegBlock x).advanceIndex_setHostOnly b d f g x⟩
  case ldVxK x => cases ht; cases hv; exact ⟨b, d, f, g, keyWait_setHostOnly s b d f g x⟩
  all_goals cases ht; cases hv; exact ⟨b, d, f, g, rfl⟩

end HostOnly

/-- Settles O17: none of the four pieces decides which fault is due, and `completion_setHostOnly`. -/
theorem hostOnlyStateIsNeverRead : Obligations.HostOnlyStateIsNeverRead := by
  intro i s b d f g
  have hdue : (s.setHostOnly b d f g).instrFaultDue i = s.instrFaultDue i := by cases i <;> rfl
  have hraise : ∀ k, SameButHostOnly (s.latchFault k (s.pc - 2) (encode i))
      ((s.setHostOnly b d f g).latchFault k (s.pc - 2) (encode i)) :=
    fun k => ⟨b, d, _, g, s.latchFault_setHostOnly b d f g k _ _⟩
  obtain ⟨t, v, ht, hv, b', d', f', g', hvt⟩ := exec_related hdue hraise fun _ _ => completion_setHostOnly s b d f g
  exact ⟨t, v, ht, hv, by rw [hvt, t.setHostOnly_restored]⟩

/-! ### The random byte of the step -/

section RandomByte

variable (s : State) (a : Option Byte) (n : Nat)

theorem State.skipIf_setRnd (c : Bool) : (s.setRnd a n).skipIf c = (s.skipIf c).setRnd a n := by
  cases c <;> rfl

theorem State.setLogicResult_setRnd (x : Reg) (r : Byte) :
    (s.setRnd a n).setLogicResult x r = (s.setLogicResult x r).setRnd a n := by
  unfold State.setLogicResult
  rw [State.setRnd_quirks]
  split <;> rfl

theorem State.advanceIndex_setRnd (x : Reg) : (s.setRnd a n).advanceIndex x = (s.advanceIndex x).setRnd a n := by
  unfold State.advanceIndex
  rw [State.setRnd_quirks]
  split <;> rfl

theorem keyWait_setRnd (x : Reg) : keyWait true x (s.setRnd a n) = (keyWait true x s).setRnd a n := by
  have hl : (s.setRnd a n).lowestPressed = s.lowestPressed := rfl
  have hd : ∀ k, (s.setRnd a n).keyDown k = s.keyDown k := fun _ => rfl
  simp only [keyWait, keyWaitRelease, if_true, hl, hd, State.setRnd_waitKey]
  cases s.waitKey with
  | none => cases s.lowestPressed <;> rfl
  | some k => dsimp only; split <;> rfl

/-- An instruction other than RND completes alike whatever the byte, and leaves the two fields as they were. -/
theorem completion_setRnd {i : Instr} {t v : State} (hi : ∀ x nn, i ≠ .rnd x nn) (ht : Completion i s t)
    (hv : Completion i (s.setRnd a n) v) : v = t.setRnd a n := by
  cases i
  case rnd x nn => exact absurd rfl (hi x nn)
  case ret | call => obtain ⟨-, rfl⟩ := ht; obtain ⟨-, rfl⟩ := hv; rfl
  case skp | sknp =>
    obtain ⟨k, hk, rfl⟩ := ht
    obtain ⟨l, hl, rfl⟩ := hv
    obtain rfl : k = l := Option.some.inj (hk.symm.trans hl)
    exact s.skipIf_setRnd a n _
  case seVxNn | sneVxNn | seVxVy | sneVxVy => cases ht; cases hv; exact s.skipIf_setRnd a n _
  case or | and | xor => cases ht; cases hv; exact s.setLogicResult_setRnd a n _ _
  case addI x =>
    cases hq : s.quirks.addiSetsVf with
    | false =>
      obtain rfl := Host.Outcome.next.inj (ht.trans (exec_addI_off hq x))
      exact Host.Outcome.next.inj (hv.trans (exec_addI_off (s := s.setRnd a n) hq x))
    | true =>
      obtain rfl := Host.Outcome.next.inj (ht.trans (exec_addI_on hq x))
      exact Host.Outcome.next.inj (hv.trans (exec_addI_on (s := s.setRnd a n) hq x))
  case ldB x => obtain ⟨-, rfl⟩ := ht; obtain ⟨-, rfl⟩ := hv; rfl
  case stRegs x =>
    obtain ⟨-, rfl⟩ := ht
    obtain ⟨-, rfl⟩ := hv
    exact (s.setMem (s.mem.writeBytes (s.dataAddr 0) (s.regBlock x))).advanceIndex_setRnd a n x
  case ldRegs x => cases ht; cases hv; exact (s.loadRegBlock x).advanceIndex_setRnd a n x
  case ldVxK x => cases ht; cases hv; exact keyWait_setRnd s a n x
  all_goals cases ht; cases hv; rfl

end RandomByte

/-- Settles O18: the byte does not decide which fault is due, and `completion_setRnd`. -/
theorem onlyRndReadsTheRandomByte : Obligations.OnlyRndReadsTheRandomByte := by
  intro i s a n hi
  have hdue : (s.setRnd a n).instrFaultDue i = s.instrFaultDue i := by cases i <;> rfl
  obtain ⟨t, v, ht, hv, hvt⟩ := exec_related (R := fun t v => v = t.setRnd a n) hdue (fun _ => rfl)
    fun _ _ => completion_setRnd s a n hi
  rw [ht, hv, hvt, mapNext_next]

end Sys2Proof.Machine
end

section
/-! PROOFS. Control flow with the return stack (spec/40_control_flow.md sections 2 and 4): CALL, RET and JP_OFF. -/

namespace Sys2Proof.Machine

/-- Seen from the state at `pc0`, an instruction that writes `pc` has the frame it has inside the instruction (R12). -/
theorem SameExcept.of_setPc {s t : State} {a : Word} {regs : List Reg} {parts : List Piece}
    (h : SameExcept regs parts (s.setPc a) t) (hpc : .pc ∈ parts) : SameExcept regs parts s t :=
  ((s.setPc_sameExcept a).mono (List.Subset.refl _) (by simpa using hpc)).congr_left h

/-- CALL with room pushes `pc`, which is `pc0 + 2`, and jumps (R102). -/
theorem exec_call_of_room {s : State} (h : s.sp.val < 64) (nnn : BitVec 12) : exec (.call nnn) s =
    .next (((s.setStack (s.stack.set s.sp.val s.pc h)).setSp ⟨s.sp.val + 1, by omega⟩).setPc (addressOf nnn)) := by
  simp only [exec, execCall, State.push, dif_pos h]

/-- RET with entry `k` on top pops it into `pc` (R100). -/
theorem exec_ret_of_entry {s : State} {k : Fin 64} (h : s.sp.val = k.val + 1) :
    exec .ret s = .next ((s.setSp ⟨k.val, by omega⟩).setPc (s.stack.get k)) := by
  simp only [exec, execRet, State.pop, h, Nat.add_sub_cancel, dif_pos (Nat.succ_pos k.val)]

/-- The array after a push: the entry at `sp`, and the others as they were. -/
theorem stack_get_set (a : Vector Word 64) {n : Nat} (h : n < 64) (w : Word) (k : Fin 64) :
    (a.set n w h).get k = if k.val = n then w else a.get k := by
  simp only [Vector.get_eq_getElem, Vector.getElem_set, eq_comm]

/-- Settles O29: `exec_call_of_room`, whose three writes touch the stack, `sp` and `pc`. -/
theorem callPushesTheNextAddress : Obligations.CallPushesTheNextAddress := by
  intro s pc0 nnn h
  refine ⟨_, exec_call_of_room (s := s.setPc (pc0 + 2)) h nnn, rfl, rfl, ?_, fun k hk => ?_, ?_⟩
  · exact (stack_get_set _ h _ _).trans (if_pos rfl)
  · exact (stack_get_set _ h _ _).trans (if_neg hk)
  · refine SameExcept.of_setPc (a := pc0 + 2) ?_ (by simp)
    exact (((State.setStack_sameExcept _ _).trans (State.setSp_sameExcept _ _)).trans
      (State.setPc_sameExcept _ _)).mono (by simp) (by simp)

/-- RET with entry `k` on top writes `pc` and `sp` only. -/
theorem exec_ret_spec {s : State} {k : Fin 64} (pc0 : Word) (h : s.sp.val = k.val + 1) :
    ∃ t, exec .ret (s.setPc (pc0 + 2)) = .next t ∧ t.pc = s.stack.get k ∧ t.sp.val = k.val ∧
      SameExcept [] [.pc, .sp] s t := by
  refine ⟨_, exec_ret_of_entry (s := s.setPc (pc0 + 2)) h, rfl, rfl, SameExcept.of_setPc (a := pc0 + 2) ?_ (by simp)⟩
  exact ((State.setSp_sameExcept _ _).trans (State.setPc_sameExcept _ _)).mono (by simp) (by simp)

/-- Settles O30: `exec_ret_spec`. -/
theorem retPopsIntoPc : Obligations.RetPopsIntoPc := fun _ pc0 _ h => exec_ret_spec pc0 h

/-- Settles O32: the CALL left `pc0 + 2` on top of the stack, which the RET pops. -/
theorem returnComesBackAfterTheCall : Obligations.ReturnComesBackAfterTheCall := by
  intro s t u pc0 pc1 nnn hroom ht hstack hsp
  obtain ⟨t', ht', -, htsp, htop, -, -⟩ := callPushesTheNextAddress s pc0 nnn hroom
  obtain rfl := Host.Outcome.next.inj (ht.symm.trans ht')
  obtain ⟨r, hr, hrpc, hrsp, hframe⟩ := exec_ret_spec (s := u) (k := ⟨s.sp.val, hroom⟩) pc1 (by rw [hsp, htsp])
  exact ⟨r, hr, by rw [hrpc, hstack, htop], Fin.ext hrsp, hframe⟩

/-- A zero-extended byte added to an address does not wrap (D21). -/
theorem addressOf_add_byte_toNat (nnn : BitVec 12) (b : Byte) :
    (addressOf nnn + b.setWidth 16).toNat = nnn.toNat + b.toNat := by
  have haddr := nnn.isLt
  have hbyte := b.isLt
  rw [BitVec.toNat_add, addressOf_toNat, BitVec.toNat_setWidth]; omega

theorem State.offsetReg_of_v0 {s : State} (h : s.quirks.jumpUsesV0 = true) (nnn : BitVec 12) : s.offsetReg nnn = 0 :=
  if_pos h

/-- Without the quirk the register is the one the high nibble of NNN names (R108). -/
theorem State.offsetReg_of_high {s : State} (h : s.quirks.jumpUsesV0 = false) {nnn : BitVec 12} {x : Reg}
    (hx : x.val = nnn.toNat / 256) : s.offsetReg nnn = x := by
  have hval : (nnn.extractLsb' 8 4).toNat = x.val := by
    have := x.isLt
    rw [BitVec.extractLsb'_toNat, Nat.shiftRight_eq_div_pow]; omega
  rw [State.offsetReg, h, if_neg Bool.false_ne_true]
  exact Fin.ext hval

/-- Settles O33: JP_OFF is one write of `pc`; the quirk selects the register. -/
theorem jpOffAddsTheSelectedRegister : Obligations.JpOffAddsTheSelectedRegister := by
  intro s pc0 nnn
  refine ⟨_, rfl, fun hq => ?_, fun hq x hx => ?_, (State.setPc_sameExcept _ _).of_setPc (by simp)⟩ <;>
    rw [State.setPc_pc, addressOf_add_byte_toNat]
  · rw [State.offsetReg_of_v0 (s := s.setPc (pc0 + 2)) hq]; rfl
  · rw [State.offsetReg_of_high (s := s.setPc (pc0 + 2)) hq hx]; rfl

end Sys2Proof.Machine
end

section
/-! PROOFS. Immediate and register ALU (spec/41_immediate_and_alu.md sections 2 and 3): each instruction is one of three
write patterns (a result; a result then a flag; a logic result), and its value is an equation of numbers. -/

namespace Sys2Proof.Machine

/-! ### The write patterns -/

theorem flagByte_toNat (f : Bool) : (flagByte f).toNat = if f then 1 else 0 := by
  cases f <;> rfl

section Patterns

variable {s : State} {i : Instr} {x : Reg} {b : Byte} {f : Bool}

/-- An instruction that writes a result and then a flag leaves the result (unless VF is its destination), the flag, and
everything else as before (R22, R132). -/
theorem exec_resultThenFlag_spec (hi : exec i s = .next (s.setResultThenFlag x b f)) :
    ∃ t, exec i s = .next t ∧ (x ≠ vf → t.reg x = b) ∧ t.reg vf = flagByte f ∧ SameExcept [x, vf] [] s t := by
  refine ⟨_, hi, fun hx => ?_, ?_, s.setResultThenFlag_sameExcept x b f⟩
  · rw [State.setResultThenFlag_reg, if_neg hx, if_pos rfl]
  · rw [State.setResultThenFlag_reg, if_pos rfl]

/-- The same in numbers: the result and the flag as equations of the operands. -/
theorem exec_resultThenFlag_toNat {n : Nat} {P : Prop} [Decidable P]
    (hi : exec i s = .next (s.setResultThenFlag x b f)) (hb : b.toNat = n) (hf : f = true ↔ P) :
    ∃ t, exec i s = .next t ∧ (x ≠ vf → (t.reg x).toNat = n) ∧ (t.reg vf).toNat = (if P then 1 else 0) ∧
      SameExcept [x, vf] [] s t := by
  obtain ⟨t, ht, hres, hflag, hframe⟩ := exec_resultThenFlag_spec hi
  exact ⟨t, ht, fun hx => by rw [hres hx, hb], by rw [hflag, flagByte_toNat]; simp only [hf], hframe⟩

/-- A logic result: the destination holds it unless VF, forced to 0, is the destination (R124 to R126). -/
theorem exec_logic_spec (hi : exec i s = .next (s.setLogicResult x b)) :
    ∃ t, exec i s = .next t ∧ (x ≠ vf ∨ s.quirks.logicResetsVf = false → t.reg x = b) ∧
      (s.quirks.logicResetsVf = true → t.reg vf = 0) ∧
      SameExcept (if s.quirks.logicResetsVf then [x, vf] else [x]) [] s t := by
  refine ⟨_, hi, fun hx => ?_, fun hq => ?_, s.setLogicResult_sameExcept x b⟩
  · have hkeep : ¬(s.quirks.logicResetsVf = true ∧ x = vf) := fun ⟨hq, hv⟩ =>
      hx.elim (fun hne => hne hv) (fun hoff => by rw [hoff] at hq; cases hq)
    rw [State.setLogicResult_reg, if_neg hkeep, if_pos rfl]
  · rw [State.setLogicResult_reg, if_pos ⟨hq, rfl⟩]

end Patterns

/-! ### The instructions -/

/-- Settles O35: each operation is a logic result, and its bits are the operation on the bits. -/
theorem logicOperationsAndTheirQuirk : Obligations.LogicOperationsAndTheirQuirk := by
  rintro s x y op i (⟨rfl, rfl⟩ | ⟨rfl, rfl⟩ | ⟨rfl, rfl⟩)
  · obtain ⟨t, ht, hres, hrest⟩ := exec_logic_spec (i := .or x y) (s := s) rfl
    exact ⟨t, ht, fun hx k _ => by rw [hres hx, BitVec.getLsbD_or], hrest⟩
  · obtain ⟨t, ht, hres, hrest⟩ := exec_logic_spec (i := .and x y) (s := s) rfl
    exact ⟨t, ht, fun hx k _ => by rw [hres hx, BitVec.getLsbD_and], hrest⟩
  · obtain ⟨t, ht, hres, hrest⟩ := exec_logic_spec (i := .xor x y) (s := s) rfl
    exact ⟨t, ht, fun hx k _ => by rw [hres hx, BitVec.getLsbD_xor], hrest⟩

theorem addCarry_iff (a b : Byte) : addCarry a b = true ↔ a.toNat + b.toNat > 255 := decide_eq_true_iff

theorem notBorrow_iff (a b : Byte) : notBorrow a b = true ↔ a.toNat ≥ b.toNat := decide_eq_true_iff

/-- Settles O36: the register form is a result then the carry, the immediate form a result alone. -/
theorem additionsWrapAndCarry : Obligations.AdditionsWrapAndCarry := by
  intro s x y nn
  constructor
  · exact exec_resultThenFlag_toNat rfl (BitVec.toNat_add _ _) (addCarry_iff _ _)
  · obtain ⟨t, ht, hres, hframe⟩ := exec_setReg_spec (i := .addVxNn x nn) (s := s) rfl
    exact ⟨t, ht, by rw [hres, BitVec.toNat_add], hframe⟩

/-- A byte difference is the true difference modulo 256. -/
theorem byte_sub_toNat (a b : Byte) : ((a - b).toNat : Int) = ((a.toNat : Int) - b.toNat) % 256 := by
  rw [BitVec.toNat_sub]
  have ha := a.isLt
  have hb := b.isLt
  omega

/-- Settles O37: both are a result then NOT borrow. -/
theorem subtractionsWrapAndBorrow : Obligations.SubtractionsWrapAndBorrow := by
  intro s x y
  constructor
  · obtain ⟨t, ht, hres, hflag, hframe⟩ :=
      exec_resultThenFlag_toNat (i := .sub x y) (s := s) rfl rfl (notBorrow_iff _ _)
    exact ⟨t, ht, fun hx => by rw [hres hx, byte_sub_toNat], hflag, hframe⟩
  · obtain ⟨t, ht, hres, hflag, hframe⟩ :=
      exec_resultThenFlag_toNat (i := .subn x y) (s := s) rfl rfl (notBorrow_iff _ _)
    exact ⟨t, ht, fun hx => by rw [hres hx, byte_sub_toNat], hflag, hframe⟩

/-- The bit SHR shifts out is the remainder of the halving. -/
theorem flagByte_shiftedOutRight (v : Byte) : (flagByte (shiftedOutRight v)).toNat = v.toNat % 2 := by
  rw [flagByte_toNat, shiftedOutRight, BitVec.getLsbD, Nat.testBit_zero]
  rcases Nat.mod_two_eq_zero_or_one v.toNat with h | h <;> simp [h]

/-- The bit SHL shifts out is the quotient by 128. -/
theorem flagByte_shiftedOutLeft (v : Byte) : (flagByte (shiftedOutLeft v)).toNat = v.toNat / 128 := by
  have hv := v.isLt
  rw [flagByte_toNat, shiftedOutLeft, BitVec.getLsbD, Nat.testBit_eq_decide_div_mod_eq]
  rcases Nat.lt_or_ge v.toNat 128 with h | h
  · simp [Nat.div_eq_of_lt h]
  · have hone : v.toNat / 128 = 1 := by omega
    simp [hone]

/-- Settles O38: both are a result then the bit shifted out. -/
theorem shiftsMoveOneBitIntoVf : Obligations.ShiftsMoveOneBitIntoVf := by
  rintro s x y v hv
  obtain rfl : v = s.shiftOperand x y := hv
  constructor
  · obtain ⟨t, ht, hres, hflag, hframe⟩ := exec_resultThenFlag_spec (i := .shr x y) (s := s) rfl
    exact ⟨t, ht, fun hx => by rw [hres hx, BitVec.toNat_ushiftRight, Nat.shiftRight_eq_div_pow, Nat.pow_one],
      by rw [hflag, flagByte_shiftedOutRight], hframe⟩
  · obtain ⟨t, ht, hres, hflag, hframe⟩ := exec_resultThenFlag_spec (i := .shl x y) (s := s) rfl
    exact ⟨t, ht, fun hx => by rw [hres hx, BitVec.toNat_shiftLeft, Nat.shiftLeft_eq, Nat.pow_one],
      by rw [hflag, flagByte_shiftedOutLeft], hframe⟩

end Sys2Proof.Machine
end

section
/-! PROOFS. Index register and memory (spec/42_index_and_memory.md; the faults by spec/60_exceptions.md section 1): ADD_I, the
decimal digits, the block moves, and the accesses above memory. -/

namespace Sys2Proof.Machine

/-! ### The index register -/

theorem indexOverflow_iff (a : Word) (b : Byte) : indexOverflow a b = true ↔ a.toNat + b.toNat > 0xFFF :=
  decide_eq_true_iff

theorem index_add_byte_toNat (a : Word) (b : Byte) : (a + b.setWidth 16).toNat = (a.toNat + b.toNat) % 65536 := by
  rw [BitVec.toNat_add, BitVec.toNat_setWidth_of_le (by decide)]

/-- Settles O40: with the quirk a write of `I` then of VF, without it a write of `I` alone. -/
theorem addIndexWrapsAndItsQuirk : Obligations.AddIndexWrapsAndItsQuirk := by
  intro s x
  cases hq : s.quirks.addiSetsVf with
  | true =>
    refine ⟨_, exec_addI_on hq x, index_add_byte_toNat _ _, fun _ => ?_,
      (s.setIndex_sameExcept _).trans (State.setFlag_sameExcept _ _)⟩
    rw [State.setFlag_reg, if_pos rfl, flagByte_toNat]
    simp only [indexOverflow_iff]
  | false =>
    exact ⟨_, exec_addI_off hq x, index_add_byte_toNat _ _, fun h => absurd h Bool.false_ne_true, s.setIndex_sameExcept _⟩

/-- The advance past a block in range does not wrap (R145, R146). -/
theorem State.advanceIndex_index_toNat {s : State} {x : Reg} (h : s.dataAddr x.val ≤ 0xFFF) :
    (s.advanceIndex x).index.toNat = if s.quirks.memAdvancesI then s.index.toNat + x.val + 1 else s.index.toNat := by
  rw [State.dataAddr] at h
  rw [State.advanceIndex_index]
  split
  · rw [BitVec.toNat_add, BitVec.toNat_ofNat]; omega
  · rfl

/-! ### Decimal digits (R144) -/

theorem decimalDigit_toNat {n : Nat} (h : n < 256) : (BitVec.ofNat 8 n).toNat = n := by
  rw [BitVec.toNat_ofNat, Nat.mod_eq_of_lt h]

theorem exec_ldB_of_inRange {s : State} (x : Reg) (h : s.dataAddr 2 ≤ 0xFFF) :
    exec (.ldB x) s = .next (s.setMem (s.mem.writeBytes (s.dataAddr 0) (decimalDigits (s.reg x)))) :=
  if_pos ((s.dataInRange_iff 2).mpr h)

/-- Settles O41: one block write of the three digits, read back at their offsets. -/
theorem bcdStoresThreeDigits : Obligations.BcdStoresThreeDigits := by
  intro s x h
  have hbyte := (s.reg x).isLt
  have hread := s.mem.read_writeBytes_inside (decimalDigits (s.reg x)) (s.dataAddr 0)
  refine ⟨_, exec_ldB_of_inRange x h, ?_, ?_, ?_, fun a ha => ?_, s.setMem_sameExcept _⟩
  · exact (congrArg BitVec.toNat (hread 0 (by simp [decimalDigits]))).trans (decimalDigit_toNat (by omega))
  · exact (congrArg BitVec.toNat (hread 1 (by simp [decimalDigits]))).trans (decimalDigit_toNat (by omega))
  · exact (congrArg BitVec.toNat (hread 2 (by simp [decimalDigits]))).trans (decimalDigit_toNat (by omega))
  · refine s.mem.read_writeBytes_outside _ _ a ?_
    have hlen : (decimalDigits (s.reg x)).length = 3 := rfl
    rw [hlen]
    simp only [State.dataAddr] at ha ⊢
    omega

/-! ### Block moves (R145, R146) -/

/-- Settles O42: one block write of V0 to VX (`exec_stRegs_of_inRange`), then the advance of `I`. -/
theorem blockStoreWritesVZeroToVX : Obligations.BlockStoreWritesVZeroToVX := by
  intro s x h
  refine ⟨_, exec_stRegs_of_inRange h, fun r hr => ?_, fun a ha => ?_, State.advanceIndex_index_toNat h, ?_⟩
  · rw [State.advanceIndex_mem]
    exact s.read_storedBlock hr
  · rw [State.advanceIndex_mem]
    refine s.mem.read_writeBytes_outside _ _ a ?_
    rw [State.regBlock_length]
    simp only [State.dataAddr] at ha ⊢
    omega
  · exact ((s.setMem_sameExcept _).trans (State.advanceIndex_sameExcept _ x)).mono (List.Subset.refl _)
      (by split <;> simp)

theorem exec_ldRegs_of_inRange {s : State} {x : Reg} (h : s.dataAddr x.val ≤ 0xFFF) :
    exec (.ldRegs x) s = .next ((s.loadRegBlock x).advanceIndex x) :=
  if_pos ((s.dataInRange_iff x.val).mpr h)

theorem State.loadRegBlock_dataAddr (s : State) (x : Reg) (n : Nat) : (s.loadRegBlock x).dataAddr n = s.dataAddr n := by
  rw [State.dataAddr, State.loadRegBlock_index, State.dataAddr]

/-- Settles O43: the block is read into V0 to VX (`State.loadRegBlock_reg`), then `I` advances. -/
theorem blockLoadReadsVZeroToVX : Obligations.BlockLoadReadsVZeroToVX := by
  intro s x h
  have hframe := (s.loadRegBlock_sameExcept x).trans (State.advanceIndex_sameExcept _ x)
  have hindex := State.advanceIndex_index_toNat (s := s.loadRegBlock x) (x := x) (by rwa [State.loadRegBlock_dataAddr])
  rw [State.loadRegBlock_quirks, State.loadRegBlock_index] at hindex
  refine ⟨_, exec_ldRegs_of_inRange h, fun r hr => ?_, fun r hr => ?_, hindex, fun p hp => hframe.2 p ?_⟩
  · rw [State.advanceIndex_reg, State.loadRegBlock_reg, if_pos hr]; rfl
  · exact hframe.1 r (by simpa using hr)
  · split <;> simp [hp]

/-- Settles O44: the load reads at the same addresses what the store wrote there. -/
theorem blockStoreThenLoadRoundTrips : Obligations.BlockStoreThenLoadRoundTrips := by
  intro s t u x h ht hmem hindex
  obtain ⟨t', ht', hstored, -⟩ := blockStoreWritesVZeroToVX s x h
  obtain rfl := Host.Outcome.next.inj (ht.symm.trans ht')
  have haddr : ∀ n, u.dataAddr n = s.dataAddr n := fun n => by rw [State.dataAddr, hindex]; rfl
  obtain ⟨r, hr, hloaded, -⟩ := blockLoadReadsVZeroToVX u x (by rwa [haddr])
  exact ⟨r, hr, fun k hk => by rw [hloaded k hk, hmem, haddr, hstored k hk]⟩

/-! ### Accesses above memory -/

/-- An instruction at `pc0` with a fault due leaves `pc0` in `pc` and the record, and everything else as it was (R208). -/
theorem exec_at_raises {i : Instr} {s : State} {k : FaultKind} (pc0 : Word) (hdue : s.instrFaultDue i = some k) :
    exec i (s.setPc (pc0 + 2)) = .next ((s.setPc pc0).setFault (some ⟨k, pc0, encode i⟩)) := by
  have hdue' : (s.setPc (pc0 + 2)).instrFaultDue i = some k := hdue ▸ (by cases i <;> rfl)
  rw [exec_eq_raiseFault hdue', raiseFault_at _ k i pc0 rfl]; rfl

/-- Settles O45: the fault table gives MemoryOutOfRange in each of the four cases. -/
theorem accessAboveMemoryFaults : Obligations.AccessAboveMemoryFaults := by
  rintro s pc0 x y n i (⟨rfl, h⟩ | ⟨rfl, h⟩ | ⟨rfl, h⟩ | ⟨rfl, hn, h⟩)
  · exact exec_at_raises pc0 (if_pos h)
  · exact exec_at_raises pc0 (if_pos h)
  · exact exec_at_raises pc0 (if_pos h)
  · have hpos : n.toNat ≠ 0 := fun hz => hn (BitVec.eq_of_toNat_eq hz)
    exact exec_at_raises pc0 (if_pos ⟨by omega, h⟩)

end Sys2Proof.Machine
end

section
/-! PROOFS. The display (spec/43_display.md): CLS, and DRW by the pixels its clipped sprite covers. -/

namespace Sys2Proof.Machine

/-- Settles O46: one write of the display, with every pixel off. -/
theorem clearTurnsEveryPixelOff : Obligations.ClearTurnsEveryPixelOff :=
  fun s => ⟨s.setDisp Display.clear, rfl, Display.clear_pixel, s.setDisp_sameExcept _⟩

/-! ### The pixels a sprite covers -/

section Sprite

variable (s : State) (x y : Reg) (n : Nat)

/-- The bytes read from `I` on, drawn at the start of the sprite, cover the pixels of `State.spriteOn` (R161). -/
theorem State.rowsOn_readBytes (py : Fin 32) (px : Fin 64) :
    rowsOn (s.drawRow y) (s.drawColumn x) (s.mem.readBytes (s.dataAddr 0) n) py px = s.spriteOn x y n py px := by
  simp only [rowsOn, byteOn, State.spriteOn, Memory.readBytes_length, State.drawRow, State.drawColumn, Nat.add_zero]
  by_cases hrow : (s.reg y).toNat % 32 ≤ py.val ∧ py.val < (s.reg y).toNat % 32 + n
  · rw [Memory.readBytes_getD _ _ _ _ (by omega), decide_eq_true hrow, Bool.true_and]
    exact congrArg (· && _) (decide_eq_decide.mpr ⟨fun h => ⟨hrow.1, hrow.2, h⟩, fun h => h.2.2⟩)
  · have hnot : ¬((s.reg y).toNat % 32 ≤ py.val ∧ py.val < (s.reg y).toNat % 32 + n ∧
        (s.reg x).toNat % 64 ≤ px.val ∧ px.val < (s.reg x).toNat % 64 + 8) := fun h => hrow ⟨h.1, h.2.1⟩
    rw [decide_eq_false hrow, decide_eq_false hnot, Bool.false_and, Bool.false_and]

/-- Rows clipped at the bottom edge cover no pixel (R161, D27). -/
theorem State.spriteOn_rowsDrawn (py : Fin 32) (px : Fin 64) :
    s.spriteOn x y (s.rowsDrawn y n) py px = s.spriteOn x y n py px := by
  have hpy := py.isLt
  have hclip : (py.val < (s.reg y).toNat % 32 + s.rowsDrawn y n) ↔ (py.val < (s.reg y).toNat % 32 + n) := by
    simp only [State.rowsDrawn, State.drawRow]; omega
  simp only [State.spriteOn, hclip]

/-- A draw inverts the covered pixels (R161). -/
theorem State.drawing_pixel (py : Fin 32) (px : Fin 64) :
    (s.drawing x y n).disp.pixel py px = ((s.pixel py px) ^^ s.spriteOn x y n py px) := by
  rw [← s.spriteOn_rowsDrawn, ← s.rowsOn_readBytes]
  exact (Drawing.rows_spec _ _ _ _).1 py px

/-- A draw collides exactly when a covered pixel was on (R161). -/
theorem State.drawing_hit :
    (s.drawing x y n).hit = true ↔ ∃ py px, s.spriteOn x y n py px = true ∧ s.pixel py px = true := by
  simp only [← s.spriteOn_rowsDrawn x y n, ← s.rowsOn_readBytes]
  rw [State.drawing, (Drawing.rows_spec _ _ _ _).2]
  simp only [Bool.false_eq_true, false_or]
  rfl

/-- The covered pixels depend on the two coordinates, `I` and memory alone. -/
theorem State.spriteOn_congr {s t : State} {x y : Reg} (hx : t.reg x = s.reg x) (hy : t.reg y = s.reg y)
    (hindex : t.index = s.index) (hmem : t.mem = s.mem) (n : Nat) : t.spriteOn x y n = s.spriteOn x y n := by
  funext py px
  simp only [State.spriteOn, hx, hy, hindex, hmem]

end Sprite

/-! ### DRW -/

/-- The state a completed DRW leaves (R161). -/
def State.afterDraw (s : State) (x y : Reg) (n : Nat) : State :=
  ((s.setDisp (s.drawing x y n).disp).setFlag (s.drawing x y n).hit).setDrawn true

theorem flagByte_eq_one_iff (f : Bool) : flagByte f = 1 ↔ f = true := by
  cases f <;> decide

section Draw

variable (s : State) (x y : Reg) (n : Nat)

theorem State.afterDraw_pixel (py : Fin 32) (px : Fin 64) :
    (s.afterDraw x y n).pixel py px = ((s.pixel py px) ^^ s.spriteOn x y n py px) := s.drawing_pixel x y n py px

theorem State.afterDraw_vf : (s.afterDraw x y n).reg vf = flagByte (s.drawing x y n).hit := by
  rw [State.afterDraw, State.setDrawn_reg, State.setFlag_reg, if_pos rfl]

theorem State.afterDraw_reg_other {r : Reg} (h : r ≠ vf) : (s.afterDraw x y n).reg r = s.reg r := by
  rw [State.afterDraw, State.setDrawn_reg, State.setFlag_reg, if_neg h, State.setDisp_reg]

theorem State.afterDraw_sameExcept : SameExcept [vf] [.disp, .drawn] s (s.afterDraw x y n) :=
  ((s.setDisp_sameExcept _).trans (State.setFlag_sameExcept _ _)).trans (State.setDrawn_sameExcept _ _)

/-- VF after a draw says whether a covered pixel was on. -/
theorem State.afterDraw_vf_eq_one_iff :
    (s.afterDraw x y n).reg vf = 1 ↔ ∃ py px, s.spriteOn x y n py px = true ∧ s.pixel py px = true := by
  rw [State.afterDraw_vf, flagByte_eq_one_iff, State.drawing_hit]

/-- VF after a draw is a flag (R21). -/
theorem State.afterDraw_vf_eq_zero (h : (s.afterDraw x y n).reg vf ≠ 1) : (s.afterDraw x y n).reg vf = 0 := by
  rw [State.afterDraw_vf] at h ⊢
  cases hhit : (s.drawing x y n).hit with
  | false => rfl
  | true => exact absurd (by rw [hhit]; rfl) h

end Draw

theorem exec_drw_of_inRange {s : State} {x y : Reg} {n : Nat}
    (h : s.rowsDrawn y n = 0 ∨ s.dataAddr (s.rowsDrawn y n - 1) ≤ 0xFFF) :
    exec (.drw x y n) s = .next (s.afterDraw x y n) := by
  have hrange : s.spriteInRange y n = true := by
    rw [State.spriteInRange, Bool.or_eq_true, beq_iff_eq, State.dataInRange_iff]
    exact h
  exact if_pos hrange

/-- Settles O47: in range DRW completes, and the pixels and VF are those of `State.afterDraw`. -/
theorem drawInvertsTheCoveredPixels : Obligations.DrawInvertsTheCoveredPixels := by
  intro s x y n rows hrows hrange
  obtain rfl : rows = s.rowsDrawn y n.toNat := hrows
  simp only [State.spriteOn_rowsDrawn, ← State.afterDraw_vf_eq_one_iff]
  refine ⟨_, exec_drw_of_inRange hrange, s.afterDraw_pixel x y _, ?_, rfl, s.afterDraw_sameExcept x y _⟩
  by_cases hone : (s.afterDraw x y n.toNat).reg vf = 1
  · exact .inl ⟨hone, hone⟩
  · exact .inr ⟨s.afterDraw_vf_eq_zero x y _ hone, hone⟩

/-- An instruction that ends with no fault latched had none due. -/
theorem instrFaultDue_eq_none {i : Instr} {s t : State} (h : exec i s = .next t) (htf : t.fault = none) :
    s.instrFaultDue i = none := by
  rcases exec_cases s i with ⟨k, -, hraise⟩ | ⟨hdue, -⟩
  · obtain rfl := Host.Outcome.next.inj (h.symm.trans hraise)
    cases htf
  · exact hdue

/-- Whether a draw is in range depends on its row coordinate and `I` alone, so a draw leaves that as it was. -/
theorem State.afterDraw_instrFaultDue (s : State) (x : Reg) {y : Reg} (hy : y ≠ vf) (n : Nat) :
    (s.afterDraw x y n).instrFaultDue (.drw x y n) = s.instrFaultDue (.drw x y n) := by
  simp only [State.instrFaultDue, s.afterDraw_reg_other x y n hy]
  rfl

/-- Settles O48: the second draw covers the same pixels, so it inverts them back, and a dark covered pixel is lit when the
second draw meets it. -/
theorem drawingTwiceRestoresTheDisplay : Obligations.DrawingTwiceRestoresTheDisplay := by
  intro s t u x y n hx hy _ htf ht hu
  have hdue := instrFaultDue_eq_none ht htf
  obtain rfl : t = s.afterDraw x y n := exec_completion s _ t ht hdue
  have hdue' := (s.afterDraw_instrFaultDue x hy n).trans hdue
  obtain rfl : u = (s.afterDraw x y n).afterDraw x y n := exec_completion _ _ u hu hdue'
  have hsame : (s.afterDraw x y n).spriteOn x y n = s.spriteOn x y n :=
    State.spriteOn_congr (s.afterDraw_reg_other x y n hx) (s.afterDraw_reg_other x y n hy) rfl rfl n
  refine ⟨Display.ext_pixel fun py px => ?_, fun hdark => ⟨?_, ?_⟩⟩
  · show ((s.afterDraw x y n).afterDraw x y n).pixel py px = s.pixel py px
    rw [State.afterDraw_pixel, State.afterDraw_pixel, hsame, Bool.xor_assoc, Bool.xor_self, Bool.xor_false]
  · refine s.afterDraw_vf_eq_zero x y n fun hone => ?_
    obtain ⟨py, px, hon, hlit⟩ := (s.afterDraw_vf_eq_one_iff x y n).mp hone
    rw [hdark py px hon] at hlit; cases hlit
  · rw [State.afterDraw_vf_eq_one_iff, hsame]
    refine exists_congr fun py => exists_congr fun px => and_iff_left_of_imp fun hon => ?_
    rw [State.afterDraw_pixel, hon, hdark py px hon]; rfl

end Sys2Proof.Machine
end

section
/-! PROOFS. Keys and the random byte (spec/44_keys_timers_random.md sections 1, 2 and 4): the key skips, the key wait with both
values of its parameter, and RND. -/

namespace Sys2Proof.Machine

/-! ### Key skips -/

section KeySkips

variable {s : State} {x : Reg} {k : Fin 16}

theorem keyOf_of_toNat {b : Byte} (h : b.toNat = k.val) : keyOf b = some k := by
  have hlt : b.toNat < 16 := h ▸ k.isLt
  rw [keyOf, dif_pos hlt]
  exact congrArg some (Fin.ext h)

theorem exec_skp_of_key (h : (s.reg x).toNat = k.val) : exec (.skp x) s = .next (s.skipIf (s.keyDown k)) := by
  simp only [exec, execSkp, keyOf_of_toNat h]

theorem exec_sknp_of_key (h : (s.reg x).toNat = k.val) : exec (.sknp x) s = .next (s.skipIf (!s.keyDown k)) := by
  simp only [exec, execSknp, keyOf_of_toNat h]

end KeySkips

/-- Settles O49: on a key number each is a skip on that key's flag; above 15 the fault table gives KeyIndexOutOfRange. -/
theorem keySkipsTestOneKey : Obligations.KeySkipsTestOneKey := by
  intro s pc0 x
  refine ⟨fun k hk => ⟨?_, ?_⟩, fun h i hi => ?_⟩
  · exact exec_skip_spec (exec_skp_of_key (s := s.setPc (pc0 + 2)) hk) Iff.rfl
  · obtain ⟨t, ht, hpc, hframe⟩ := exec_skip_spec (P := ¬s.keyDown k = true)
      (exec_sknp_of_key (s := s.setPc (pc0 + 2)) hk) (by simp)
    exact ⟨t, ht, by rw [hpc, ite_not], hframe⟩
  · rcases hi with rfl | rfl <;> exact exec_at_raises pc0 (if_pos h)

/-! ### The key wait -/

section Wait

variable {s : State} {k : Fin 16} (x : Reg)

/-- No key is awaited and none is down: stall (R172). -/
theorem keyWait_of_no_key (hw : s.waitKey = none) (h : ∀ k, s.keyDown k = false) : keyWait true x s = s.stall := by
  simp only [keyWait, keyWaitRelease, if_true, hw, s.lowestPressed_none.mpr h]

/-- No key is awaited and some are down: the lowest is awaited, stall (R172, D11). -/
theorem keyWait_of_press (hw : s.waitKey = none) (h : s.keyDown k = true) (hlow : ∀ j, j < k → s.keyDown j = false) :
    keyWait true x s = (s.setWaitKey (some k)).stall := by
  simp only [keyWait, keyWaitRelease, if_true, hw, s.lowestPressed_eq h hlow]

/-- The key awaited is still down: stall (R172). -/
theorem keyWait_of_held (hw : s.waitKey = some k) (h : s.keyDown k = true) : keyWait true x s = s.stall := by
  simp only [keyWait, keyWaitRelease, if_true, hw, h]

/-- The key awaited is up: its number is stored and none is awaited (R172, D11). -/
theorem keyWait_of_release (hw : s.waitKey = some k) (h : s.keyDown k = false) :
    keyWait true x s = (s.setReg x (BitVec.ofNat 8 k.val)).setWaitKey none := by
  simp only [keyWait, keyWaitRelease, if_true, hw, h, Bool.false_eq_true, if_false]

/-- A stall inside the instruction at `pc0` goes back to `pc0` (R12, R172). -/
theorem State.stall_at (s : State) (pc0 : Word) : (s.setPc (pc0 + 2)).stall = s.setPc pc0 :=
  congrArg s.setPc (BitVec.add_sub_cancel pc0 2)

theorem keyNumber_toNat (k : Fin 16) : (BitVec.ofNat 8 k.val).toNat = k.val := by
  rw [BitVec.toNat_ofNat, Nat.mod_eq_of_lt (by omega)]

end Wait

/-- LD_VX_K on this hardware is the key wait with the parameter `true` (R8). -/
theorem exec_ldVxK (x : Reg) (s : State) : exec (.ldVxK x) s = .next (keyWait true x s) := rfl

/-- Settles O50: the four phases of the key wait, each seen from `pc0`. -/
theorem keyWaitTakesPressThenRelease : Obligations.KeyWaitTakesPressThenRelease := by
  intro s pc0 x
  refine ⟨fun hw h => ?_, fun k hw h hlow => ?_, fun k hw h => ?_, fun k hw h => ?_⟩ <;> rw [exec_ldVxK]
  · rw [keyWait_of_no_key (s := s.setPc (pc0 + 2)) x hw h, State.stall_at]
  · rw [keyWait_of_press (s := s.setPc (pc0 + 2)) x hw h hlow]
    exact congrArg Host.Outcome.next ((s.setWaitKey (some k)).stall_at pc0)
  · rw [keyWait_of_held (s := s.setPc (pc0 + 2)) x hw h, State.stall_at]
  · have hframe := (keyWait_sameExcept (s.setPc (pc0 + 2)) true x).of_setPc (by simp)
    rw [keyWait_of_release (s := s.setPc (pc0 + 2)) x hw h] at hframe ⊢
    refine ⟨_, rfl, ?_, rfl, rfl, hframe⟩
    rw [State.setWaitKey_reg, State.setReg_reg_same, keyNumber_toNat]

/-- Settles O51: with the parameter `false` the wait stalls, or writes the number of the lowest key. -/
theorem keyWaitOnPressAlone : Obligations.KeyWaitOnPressAlone := by
  intro s pc0 x
  refine ⟨fun h => ?_, fun k h hlow => ?_⟩
  · have hnone : (s.setPc (pc0 + 2)).lowestPressed = none := s.lowestPressed_none.mpr h
    rw [keyWait, if_neg Bool.false_ne_true, keyWaitPress, hnone]
    exact s.stall_at pc0
  · have hsome : (s.setPc (pc0 + 2)).lowestPressed = some k := s.lowestPressed_eq h hlow
    rw [keyWait, if_neg Bool.false_ne_true, keyWaitPress, hsome]
    refine ⟨State.setReg_reg_same _ _ _, ?_, rfl⟩
    exact ((State.setReg_sameExcept _ x _).mono (List.Subset.refl _) (List.nil_subset _)).of_setPc (by simp)

/-! ### A press and a release around the wait -/

/-- The machine runs, and the next instruction is LD_VX_K. -/
def State.AtKeyWait (s : State) (x : Reg) : Prop :=
  s.fault = none ∧ s.fetchable = true ∧ decodeWord s.fetchWord = some (.ldVxK x)

section PressRelease

variable {s t : State} {x : Reg} {k : Fin 16}

/-- Being at a key wait is a matter of the record, `pc` and memory. -/
theorem State.AtKeyWait.congr (h : s.AtKeyWait x) (hfault : t.fault = s.fault) (hpc : t.pc = s.pc)
    (hmem : ∀ a, t.mem.read a = s.mem.read a) : t.AtKeyWait x := by
  obtain ⟨hf, hp, hd⟩ := h
  refine ⟨hfault.trans hf, ?_, ?_⟩
  · rwa [State.fetchable, hpc]
  · rwa [State.fetchWord, hpc, hmem, hmem]

/-- A step at a key wait is the key wait, whatever byte the environment names. -/
theorem State.AtKeyWait.step (h : s.AtKeyWait x) : step s = .next (keyWait true x ((s.setStarted true).setPc (s.pc + 2))) :=
  step_of_decode h.1 h.2.1 h.2.2

/-- The step that sees the press: the key is awaited, and the machine is at the same wait. -/
theorem State.AtKeyWait.step_press (h : s.AtKeyWait x) (a : Byte) (hw : s.waitKey = none) (hk : s.keyDown k = true)
    (hlow : ∀ j, j < k → s.keyDown j = false) :
    ∃ t, stepWith a s = .next t ∧ t.AtKeyWait x ∧ t.waitKey = some k ∧ t.pc = s.pc := by
  have hu : (s.setRnd (some a) s.rndCount).AtKeyWait x := h.congr rfl rfl fun _ => rfl
  have hphases := keyWaitTakesPressThenRelease ((s.setRnd (some a) s.rndCount).setStarted true) s.pc x
  obtain ⟨-, hpress, -, -⟩ := hphases
  have hstep := stepWith_of_step (hu.step.trans (hpress k hw hk hlow))
  exact ⟨_, hstep, h.congr (by simp) (by simp) (by simp), by simp, by simp⟩

/-- The step that sees the release completes the wait. -/
theorem State.AtKeyWait.step_release (h : s.AtKeyWait x) (b : Byte) (hw : s.waitKey = some k)
    (hk : s.keyDown k = false) :
    ∃ t, stepWith b s = .next t ∧ (t.reg x).toNat = k.val ∧ t.waitKey = none ∧ t.fault = none ∧ t.pc = s.pc + 2 := by
  have hu : (s.setRnd (some b) s.rndCount).AtKeyWait x := h.congr rfl rfl fun _ => rfl
  have hphases := keyWaitTakesPressThenRelease ((s.setRnd (some b) s.rndCount).setStarted true) s.pc x
  obtain ⟨-, -, -, hrelease⟩ := hphases
  obtain ⟨t, ht, hreg, hwait, hpc, -, hpieces⟩ := hrelease k hw hk
  have hfault : t.fault = s.fault := hpieces .fault (by simp)
  exact ⟨_, stepWith_of_step (hu.step.trans ht), hreg, hwait, hfault.trans h.1, hpc⟩

end PressRelease

/-- Settles O52: the press step, the ticks, the host's release and the release step, in that order. -/
theorem pressAndReleaseCompletesTheWait : Obligations.PressAndReleaseCompletesTheWait := by
  intro s x k up n a b hf hw heven hle hd hk hlow hup
  have hwait : s.AtKeyWait x := ⟨hf, s.fetchable_iff.mpr ⟨heven, hle⟩, hd⟩
  obtain ⟨t, ht, htwait, htk, htpc⟩ := hwait.step_press a hw hk hlow
  obtain ⟨u, hu, -, -, -, hticks⟩ := ticksCountDownToZero t n htwait.1
  have hupc : u.pc = t.pc := hticks .pc (by simp)
  have huk : u.waitKey = t.waitKey := hticks .waitKey (by simp)
  have hureleased : (u.setKeys up).AtKeyWait x :=
    htwait.congr (hticks .fault (by simp)) hupc (hticks .mem (by simp))
  obtain ⟨r, hr, hreg, hrk, hrf, hrpc⟩ := hureleased.step_release b (huk.trans htk) hup
  refine ⟨r, ?_, hreg, hrk, hrf, ?_⟩
  · rw [List.append_assoc, List.singleton_append, performAll_cons (tr := .step a) ht, performAll_append hu,
      performAll_cons (tr := .setKeys up) rfl, performAll_cons (tr := .step b) hr, performAll]
  · exact hrpc.trans (by rw [← htpc, ← hupc]; rfl)

/-! ### The random byte -/

/-- RND is a write of `V[X]` and the use of the byte (R177). -/
theorem exec_rnd_spec (s : State) (x : Reg) (nn : Byte) : ∃ t, exec (.rnd x nn) s = .next t ∧
    t.reg x = s.rndByte &&& nn ∧ SameExcept [x] [.rnd] s t :=
  ⟨_, rfl, s.setReg_reg_same x _, (s.setReg_sameExcept x _).trans (State.setRnd_sameExcept _ _ _)⟩

/-- Settles O54: `exec_rnd_spec`, from the state that holds the named byte and from any state. -/
theorem rndMasksTheRandomByte : Obligations.RndMasksTheRandomByte := by
  intro s x nn rnd
  constructor
  · obtain ⟨t, ht, hreg, hframe⟩ := exec_rnd_spec (s.setRnd (some rnd) s.rndCount) x nn
    exact ⟨t, ht, by rw [hreg, State.rndByte_named _ rnd rfl], (s.setRnd_sameExcept _ _).congr_left hframe⟩
  · obtain ⟨t, ht, hreg, hframe⟩ := exec_rnd_spec s x nn
    exact ⟨t, s.rndByte, ht, hreg, hframe⟩

end Sys2Proof.Machine
end
